-- ==== Sys2Proof/Word.lean ====
section
/-!
DEFINITION. The word types of the block (00_scope.md R14): `uN` and `sN` values are bit vectors of width N.
-/

namespace Sys2Proof

/-- u8: a payload byte, a cell of `dataout`, the accumulator (10_state.md R26, R29). -/
abbrev Byte := BitVec 8

/-- s16: a sample component, an amplitude, the threshold baseline (10_state.md R21); read as signed by `toInt`. -/
abbrev Half := BitVec 16

/-- The 34-bit input word `cmd, i_raw, q_raw` (30_encoding.md R80). -/
abbrev InputWord := BitVec 34

end Sys2Proof
end

