-- ==== Sys2Proof/Config.lean ====
section
/-!
DEFINITION. The configuration record of 00_scope.md R7 to R12, and the example configurations of
95_test_vectors.md section 1.

Every parameter the spec marks OPEN is a field, so a statement about every state is a statement about every
value of it. FIXED parameters with no alternative that the spec names are constants here (log entry 12).
-/

namespace Sys2Proof

/-- The amplitude policy `AMP_MODE` (00_scope.md R7). Only `iOnly` is legal; the two others are the policies of
earlier revisions that the source names without a rule (93_implementation_defined.md U4). -/
inductive AmpMode where
  | iOnly
  | largerMagnitude
  | iPlusQ
deriving DecidableEq, Repr

/-- The configuration record (00_scope.md R7 to R12). Numbers are plain naturals so that an illegal value
(30_encoding.md R93) can be written down and refused. -/
structure Config where
  /-- `PERCENT_LAST` (R7), legal 0 to 100, doc default 5. -/
  percentLast : Nat
  /-- `AMP_MODE` (R7), FIXED `I_ONLY`. -/
  ampMode : AmpMode
  /-- `NOISE_FLOOR` (R7), FIXED 0. -/
  noiseFloor : Nat
  /-- `HEADER_WIDTH`, written W (R8), legal 8, 9, 11, 12. -/
  headerWidth : Nat
  /-- `HEADER` (R8), a W-bit unsigned value, OPEN. -/
  header : Nat
  /-- `BYTE_TIMING` (R9), OPEN. -/
  byteTiming : Bool
  /-- `TIMING_INTERVAL` (R9), legal 0 to 255, OPEN. -/
  timingInterval : Nat
  /-- `IGNORE_SLOT_BITS` (R9), legal 8 to 31, OPEN. -/
  ignoreSlotBits : Nat
  /-- `DATAOUT_CAPACITY`, written CAP (R10), legal 1 and up, OPEN. -/
  dataoutCapacity : Nat
  /-- `SYNC_MARKER[0]` (R11), OPEN. -/
  syncMarker0 : Byte
  /-- `SYNC_MARKER[1]` (R11), OPEN. -/
  syncMarker1 : Byte
  /-- `SCREEN_FOR_HEADER` (R11), OPEN. -/
  screenForHeader : Bool
  /-- `ESCAPE_ENABLE` (R12), OPEN. -/
  escapeEnable : Bool
  /-- `ESC_MARKER` (R12), OPEN. -/
  escMarker : Byte
  /-- `ESC_XOR` (R12), OPEN. -/
  escXor : Byte
  /-- `ESC_EXTRA` (R12), the byte values from 32 up that are also escaped, OPEN (log entry 11). -/
  escExtra : List Byte
deriving DecidableEq, Repr

/-- Example configuration EX1 of 95_test_vectors.md (D33: an example, not the constants of the original). -/
def Config.ex1 : Config where
  percentLast := 5
  ampMode := .iOnly
  noiseFloor := 0
  headerWidth := 12
  header := 0xF35
  byteTiming := false
  timingInterval := 0
  ignoreSlotBits := 20
  dataoutCapacity := 16
  syncMarker0 := 0x53
  syncMarker1 := 0x51
  screenForHeader := false
  escapeEnable := false
  escMarker := 0x7F
  escXor := 0x40
  escExtra := [0x7F, 0xFF]

/-- Example configuration EX2: the short header. -/
def Config.ex2 : Config :=
  { Config.ex1 with headerWidth := 8, header := 0xA7, ignoreSlotBits := 17 }

/-- Example configuration EX3: timing mode, sync gating, escape coding. -/
def Config.ex3 : Config :=
  { Config.ex1 with
    byteTiming := true, timingInterval := 2, dataoutCapacity := 5, screenForHeader := true, escapeEnable := true }

end Sys2Proof
end

