-- ==== Sys2Proof/Machine/ConfigRules.lean ====
section
/-!
DEFINITION. The values derived from a configuration (00_scope.md R8, R12) and the check that it is legal
(30_encoding.md R93, 70_reset_and_hazards.md R254).
-/

namespace Sys2Proof.Machine

/-- `SAMPLE_SHIFT` FIXED = 4 (00_scope.md R7). -/
def sampleShift : Nat := 4

/-- `BYTE_BITS` FIXED = 8 (00_scope.md R9). -/
def byteBits : Nat := 8

/-- `MASK = 2^W - 1` (00_scope.md R8). -/
def maskNat (c : Config) : Nat := 2 ^ c.headerWidth - 1

/-- `MASK` as a window value. -/
def mask (c : Config) : BitVec 12 := BitVec.ofNat 12 (maskNat c)

/-- `HEADER` as a window value (00_scope.md R8). -/
def headerWord (c : Config) : BitVec 12 := BitVec.ofNat 12 c.header

/-- `INVERSE_HEADER = (~HEADER) & MASK` (00_scope.md R8). -/
def inverseHeader (c : Config) : BitVec 12 := ~~~headerWord c &&& mask c

/-- `SYNC_MARKER[k]` (00_scope.md R11). -/
def syncMarker (c : Config) (k : Fin 2) : Byte := if k = 0 then c.syncMarker0 else c.syncMarker1

/-- `needs_escape(b)`: membership in the reserved set `ESC_SET` (42_byte_assembler.md R165, 00_scope.md R12). -/
def needsEscape (c : Config) (b : Byte) : Bool := decide (b.toNat < 32) || c.escExtra.contains b

/-- The members of `ESC_SET` as a list (00_scope.md R12). -/
def escSet (c : Config) : List Byte := (List.range 32).map (BitVec.ofNat 8) ++ c.escExtra

/-- `HEADER_WIDTH` in the legal set (R93). -/
def widthLegal (c : Config) : Bool := [8, 9, 11, 12].contains c.headerWidth

/-- `HEADER <= MASK` (R93, R254). -/
def headerLegal (c : Config) : Bool := decide (c.header ≤ maskNat c)

/-- `PERCENT_LAST <= 100` (R93). -/
def percentLegal (c : Config) : Bool := decide (c.percentLast ≤ 100)

/-- `AMP_MODE` and `NOISE_FLOOR` at their FIXED values (R93, U4, U5). -/
def amplitudeLegal (c : Config) : Bool := decide (c.ampMode = .iOnly) && decide (c.noiseFloor = 0)

/-- `IGNORE_SLOT_BITS` and `TIMING_INTERVAL` in range (R93). -/
def timingLegal (c : Config) : Bool :=
  decide (8 ≤ c.ignoreSlotBits) && decide (c.ignoreSlotBits ≤ 31) && decide (c.timingInterval ≤ 255)

/-- `CAP >= 1` (R93). -/
def capacityLegal (c : Config) : Bool := decide (1 ≤ c.dataoutCapacity)

/-- The constraints (a) and (b) of 00_scope.md R12, asked for only while `ESCAPE_ENABLE` (R93). -/
def escapeLegal (c : Config) : Bool :=
  !c.escapeEnable || (needsEscape c c.escMarker && (escSet c).all fun b => !needsEscape c (b ^^^ c.escXor))

/-- A configuration under which the block has a meaning: none of the reserved values of R93. -/
def configLegal (c : Config) : Bool :=
  widthLegal c && headerLegal c && percentLegal c && amplitudeLegal c && timingLegal c && capacityLegal c && escapeLegal c

end Sys2Proof.Machine
end

