-- ==== Sys2Proof/Syntax.lean ====
section
/-!
DEFINITION. The operations of the block, one constructor per row of spec/opcode_table.json
(30_encoding.md R81).
-/

namespace Sys2Proof

/-- The input operations (30_encoding.md R81). The operand fields that an operation ignores (R80, U13) are no
operands of it: every spelling of `NOP` is the one operation `nop`. -/
inductive Instr where
  /-- `NOP`, cmd 0b00 (43_scan_control.md R200). -/
  | nop
  /-- `SAMPLE i_raw, q_raw`, cmd 0b01 (40_bit_synchronizer.md R110). -/
  | sample (iRaw qRaw : Half)
  /-- `SCAN_END`, cmd 0b10 (43_scan_control.md R201). -/
  | scanEnd
  /-- `RESERVED_3`, cmd 0b11 (30_encoding.md R82): an operation code without a meaning. -/
  | reserved3
deriving DecidableEq, Repr

end Sys2Proof
end

