-- ==== Sys2Proof/Machine/State.lean ====
section
/-!
DEFINITION. The state of the block as plain data (10_state.md R20 to R33), the input and output records of the
model, the reasons a step can stop, and the reset state (70_reset_and_hazards.md R251).
-/

namespace Sys2Proof.Machine

/-- The recovered-byte buffer `dataout` (10_state.md R29): the written cells as (index, byte) pairs, indices
strictly rising. A cell that is not listed has no value: the spec gives none (R252; log entry 5). -/
abbrev Memory := List Host.Cell

/-- What the environment presents to the block in one step: the reset input (70_reset_and_hazards.md R250), the
static configuration inputs (10_state.md R36) and the input word (30_encoding.md R80). -/
structure InputStep where
  rst : Bool
  cfg : Config
  word : InputWord
deriving DecidableEq, Repr

/-- The flush record, the only data output of the block (30_encoding.md R83). -/
structure FlushRecord where
  emit : Bool
  n : Nat
  bytes : List Byte
  syncFound : Bool
  overflow : Bool
deriving DecidableEq, Repr

/-- The sequencing state that stands in for a program counter (10_state.md R34). -/
inductive Sequencing where
  /-- SEARCHING. -/
  | searching
  /-- LOCKED in normal mode, at bit `bit` of 8. -/
  | lockedNormal (bit : Nat)
  /-- LOCKED in ignore-headers mode, at bit `bit` of `IGNORE_SLOT_BITS`. -/
  | lockedIgnore (bit : Nat)
deriving DecidableEq, Repr

/-- The whole state. Registers keep the names of 10_state.md; the last three fields are the model's own
(log entries 1, 2, 7). -/
structure State where
  /-- s16, the threshold baseline (R21). -/
  amplitudeLast : Half
  /-- `true` is SEARCHING, `false` is LOCKED (R22). -/
  isReadingHeader : Bool
  /-- u12, the rolling window, newest bit at bit 0 (R23). -/
  window : BitVec 12
  /-- The signal-inversion flag (R24). -/
  isSignalInverted : Bool
  /-- u5, bits shifted into the current slot (R25). -/
  bitIndex : BitVec 5
  /-- u8, the byte accumulator (R26). -/
  tempByte : Byte
  /-- The counted ignore-headers mode (R27). -/
  ignoreHeaders : Bool
  /-- u8, ignore-headers slots still to be read (R28). -/
  slotsLeft : BitVec 8
  /-- The recovered-byte buffer (R29). -/
  dataout : Memory
  /-- The number of bytes in `dataout`, 0 to CAP (R30). -/
  dataoutIndex : Nat
  /-- The marker was found in this scan (R31). -/
  sqanHeaderFound : Bool
  /-- The index of the next expected marker byte (R32). -/
  matchIdx : Fin 2
  /-- An output byte was dropped in this scan (R33). -/
  overflow : Bool
  /-- The configuration in force since reset was released (00_scope.md R13). -/
  cfg : Config
  /-- The input items still to come (60_exceptions.md R231). -/
  input : List InputStep
  /-- The flush records produced so far, oldest first (60_exceptions.md R231). -/
  flushes : List FlushRecord
deriving DecidableEq, Repr

/-- The reasons a step can fault. The spec's block has no fault (60_exceptions.md R220): both constructors arise
only in states that no run reaches, where `dataoutIndex` counts cells that are not there (20_memory.md R63). -/
inductive Fault where
  /-- Raised by the flush of `SCAN_END` for an index at or above CAP (20_memory.md R60). Safe. -/
  | noSuchCell
  /-- Raised by the flush of `SCAN_END` for a cell that nothing has written: the spec gives it no value
  (10_state.md R29, U12). Safe. -/
  | unwrittenCell
deriving DecidableEq, Repr

/-- The reasons a step can be refused. -/
inductive Refusal where
  /-- The host's name for an operation without a meaning; no arm of `exec` uses it. Safe. -/
  | notModelled (mnemonic : String)
  /-- Raised by the reserved operation code 0b11 (30_encoding.md R82, 43_scan_control.md R206, U1). Safe. -/
  | reservedOperation
  /-- Raised by the step for a word presented under a configuration outside the legal set (30_encoding.md R93,
  U3). Safe. -/
  | illegalConfiguration
  /-- Raised by the step for a word presented with configuration inputs that differ from those in force since
  reset (00_scope.md R13, 20_memory.md R73, U2). Safe. -/
  | configurationChanged
  /-- Raised by the step when the input stream is used up: the end of the run (60_exceptions.md R231). Safe. -/
  | endOfInput
deriving DecidableEq, Repr

/-- The reset state under configuration `c` (70_reset_and_hazards.md R251), with the given input still to come and
the given records already produced. The cells of `dataout` are unspecified (R252): nothing is listed. -/
def State.resetWith (c : Config) (input : List InputStep) (flushes : List FlushRecord) : State where
  amplitudeLast := 0
  isReadingHeader := true
  window := 0
  isSignalInverted := false
  bitIndex := 0
  tempByte := 0
  ignoreHeaders := false
  slotsLeft := 0
  dataout := []
  dataoutIndex := 0
  sqanHeaderFound := false
  matchIdx := 0
  overflow := false
  cfg := c
  input := input
  flushes := flushes

/-- The machine right after reset. DESIGN CHOICE (log entry 3): the configuration applied is the spec's example
EX1; no statement rests on it, and a first input item with `rst` applies any other. -/
def State.reset : State := State.resetWith Config.ex1 [] []

end Sys2Proof.Machine
end

