-- ==== Sys2Proof/Machine/Operands.lean ====
section
/-!
DEFINITION. Operand assembly of `SAMPLE` (30_encoding.md R84): normalisation and amplitude extraction.
-/

namespace Sys2Proof.Machine

/-- One component normalised: `signed16((raw << 4)[15:0])` (40_bit_synchronizer.md R111, R116 (f)). -/
def normaliseComponent (raw : Half) : Half := raw <<< sampleShift

/-- `normalise(i_raw, q_raw)` (R111). -/
def normalise (iRaw qRaw : Half) : Half × Half := (normaliseComponent iRaw, normaliseComponent qRaw)

/-- `amplitude(i_n, q_n) = i_n`, the `I_ONLY` policy (R112); no later rule reads the quadrature (R118). -/
def amplitude (n : Half × Half) : Half := n.1

/-- The amplitude operand of `SAMPLE i_raw, q_raw` (R84). -/
def sampleAmplitude (iRaw qRaw : Half) : Half := amplitude (normalise iRaw qRaw)

end Sys2Proof.Machine
end

