-- ==== Sys2Proof/Machine/BitSynchronizer.lean ====
section
/-!
DEFINITION. The bit synchronizer: classification, polarity, threshold update (40_bit_synchronizer.md).
-/

namespace Sys2Proof.Machine

/-- `truncdiv(a, b)` for `b > 0`: the quotient rounded toward zero (00_scope.md R14). -/
def truncdiv (a : Int) (b : Nat) : Int :=
  if 0 ≤ a then ((a.toNat / b : Nat) : Int) else -(((-a).toNat / b : Nat) : Int)

/-- `classify(amp, amplitudeLast)`: 1 exactly when `amp >= amplitudeLast`, signed (R113). Equality is a 1 (R266); there
is no noise floor (R117). -/
def classify (amp last : Half) : Bool := decide (last.toInt ≤ amp.toInt)

/-- `apply_polarity(raw_bit)`: flipped only while LOCKED on an inverted link (R114). -/
def applyPolarity (s : State) (rawBit : Bool) : Bool :=
  if !s.isReadingHeader && s.isSignalInverted then !rawBit else rawBit

/-- `truncdiv(amp * cfg.PERCENT_LAST, 100)` with an exact product (R115, R116). -/
def baseline (c : Config) (amp : Half) : Half := BitVec.ofInt 16 (truncdiv (amp.toInt * c.percentLast) 100)

end Sys2Proof.Machine
end

