-- ==== Sys2Proof/Machine/Flags.lean ====
section
/-!
DEFINITION. The flag computations: the three 1-bit flags of 10_state.md section 6 and the emit condition.
-/

namespace Sys2Proof.Machine

/-- The completed byte equals the next expected marker byte (42_byte_assembler.md R167, 30_encoding.md R90). -/
def markerByteMatches (s : State) (b : Byte) : Bool := b == syncMarker s.cfg s.matchIdx

/-- `sqanHeaderFound` after the completed byte `b`: set by a match of the last marker byte, never cleared within a
scan (R167, 10_state.md R31). -/
def foundAfter (s : State) (b : Byte) : Bool :=
  if markerByteMatches s b && s.matchIdx == 1 then true else s.sqanHeaderFound

/-- `matchIdx` after the completed byte `b`: 1 only after a match of the first marker byte (R167). -/
def matchIdxAfter (s : State) (b : Byte) : Fin 2 :=
  if markerByteMatches s b && s.matchIdx == 0 then 1 else 0

/-- The emit condition (43_scan_control.md R202). -/
def emitCondition (s : State) : Bool :=
  decide (0 < s.dataoutIndex) && (!s.cfg.screenForHeader || s.sqanHeaderFound)

end Sys2Proof.Machine
end

