-- ==== Sys2Proof/Machine/Ops.lean ====
section
/-!
DEFINITION. The named operations over the memory `dataout`, the registers, the flush output and the status
outputs. The block takes no exception and returns from none (60_exceptions.md R220, R225, R226), so there is no
operation for either; the reset input is `resetStep`.
-/

namespace Sys2Proof.Machine

/-! ### Memory (20_memory.md) -/

/-- The canonical form: indices strictly rising. (No byte value equals the "no value" of an unlisted cell, so
there is no entry to leave out.) -/
def Memory.wf (m : Memory) : Bool := decide (m.Pairwise fun a b => a.1 < b.1)

/-- The byte listed at index `k`, if any. -/
def memLookup : Memory → Nat → Option Byte
  | [], _ => none
  | (a, v) :: m, k => if a = k then some v else memLookup m k

/-- `MemWrite(idx, 1, v)` (R62). Its only caller writes below CAP. -/
def memWrite : Memory → Nat → Byte → Memory
  | [], k, v => [(k, v)]
  | (a, w) :: m, k, v =>
    if k < a then (k, v) :: (a, w) :: m
    else if k = a then (k, v) :: m
    else (a, w) :: memWrite m k v

/-- `MemRead(idx, 1)` (R63). An index outside the address space, or a cell that nothing has written, faults. -/
def memRead (c : Config) (m : Memory) (idx : Nat) : Except Fault Byte :=
  if idx < c.dataoutCapacity then
    match memLookup m idx with
    | some v => .ok v
    | none => .error .unwrittenCell
  else .error .noSuchCell

/-- `[MemRead(0,1), ..., MemRead(n-1,1)]`, ascending (43_scan_control.md R201, R203). -/
def readCells (c : Config) (m : Memory) : Nat → Except Fault (List Byte)
  | 0 => .ok []
  | n + 1 =>
    match readCells c m n with
    | .error f => .error f
    | .ok bs =>
      match memRead c m n with
      | .error f => .error f
      | .ok b => .ok (bs ++ [b])

/-! ### Register updates -/

/-- Write the threshold baseline. -/
def State.setAmplitudeLast (s : State) (v : Half) : State := { s with amplitudeLast := v }

/-- Write the rolling window. -/
def State.setWindow (s : State) (w : BitVec 12) : State := { s with window := w }

/-- `lock(inv)`: the actions of a header match (41_header_detector.md R143). -/
def State.lock (s : State) (inv : Bool) : State :=
  { s with isReadingHeader := false, isSignalInverted := inv, bitIndex := 0, tempByte := 0 }

/-- Write the accumulator and the bit count. -/
def State.setSlot (s : State) (t : Byte) (k : BitVec 5) : State := { s with tempByte := t, bitIndex := k }

/-- Store a byte at `dataoutIndex` and count it. -/
def State.storeByte (s : State) (o : Byte) : State :=
  { s with dataout := memWrite s.dataout s.dataoutIndex o, dataoutIndex := s.dataoutIndex + 1 }

/-- Set `overflow`. -/
def State.markOverflow (s : State) : State := { s with overflow := true }

/-- Write the matcher's flag and index. -/
def State.setMatcher (s : State) (found : Bool) (k : Fin 2) : State := { s with sqanHeaderFound := found, matchIdx := k }

/-- Write `slotsLeft`. -/
def State.setSlotsLeft (s : State) (n : BitVec 8) : State := { s with slotsLeft := n }

/-- Write `ignoreHeaders`. -/
def State.setIgnoreHeaders (s : State) (b : Bool) : State := { s with ignoreHeaders := b }

/-- Back to SEARCHING. -/
def State.resumeSearch (s : State) : State := { s with isReadingHeader := true }

/-- Produce a flush record. -/
def State.emitRecord (s : State) (r : FlushRecord) : State := { s with flushes := s.flushes ++ [r] }

/-- Clear the per-scan state; the cells of `dataout` are not erased (43_scan_control.md R204). -/
def State.clearScan (s : State) : State :=
  { s with dataoutIndex := 0, sqanHeaderFound := false, matchIdx := 0, overflow := false }

/-- Replace the input still to come. -/
def State.setInput (s : State) (xs : List InputStep) : State := { s with input := xs }

/-! ### Shared operations -/

/-- `append(o)`: bounded append, one byte, its own capacity check (42_byte_assembler.md R166); `overflow` is the one
reportable condition of the block (60_exceptions.md R222). -/
def append (s : State) (o : Byte) : State :=
  if s.dataoutIndex < s.cfg.dataoutCapacity then s.storeByte o else s.markOverflow

/-- The appends of a list of output bytes, in order (R163 step 2). -/
def appendAll (s : State) (out : List Byte) : State := out.foldl append s

/-- The flush record of the state before the clears (43_scan_control.md R203, 30_encoding.md R83). -/
def flushRecord (s : State) (bytes : List Byte) : FlushRecord where
  emit := emitCondition s
  n := s.dataoutIndex
  bytes := bytes
  syncFound := s.sqanHeaderFound
  overflow := s.overflow

/-- The state after a step with `rst` asserted: the reset state under the configuration applied, no record
produced (70_reset_and_hazards.md R250, R253). -/
def resetStep (s : State) (c : Config) (rest : List InputStep) : State := State.resetWith c rest s.flushes

/-! ### Views -/

/-- The read-only status outputs (10_state.md R36, D28): every register but the `dataout` cells. -/
structure StatusOutputs where
  amplitudeLast : Half
  isReadingHeader : Bool
  window : BitVec 12
  isSignalInverted : Bool
  bitIndex : BitVec 5
  tempByte : Byte
  ignoreHeaders : Bool
  slotsLeft : BitVec 8
  dataoutIndex : Nat
  sqanHeaderFound : Bool
  matchIdx : Fin 2
  overflow : Bool
deriving DecidableEq, Repr

/-- What the status outputs show (R36). -/
def statusOutputs (s : State) : StatusOutputs where
  amplitudeLast := s.amplitudeLast
  isReadingHeader := s.isReadingHeader
  window := s.window
  isSignalInverted := s.isSignalInverted
  bitIndex := s.bitIndex
  tempByte := s.tempByte
  ignoreHeaders := s.ignoreHeaders
  slotsLeft := s.slotsLeft
  dataoutIndex := s.dataoutIndex
  sqanHeaderFound := s.sqanHeaderFound
  matchIdx := s.matchIdx
  overflow := s.overflow

/-- Where the block stands in its sequence (10_state.md R34). -/
def sequencing (s : State) : Sequencing :=
  if s.isReadingHeader then .searching
  else if s.ignoreHeaders then .lockedIgnore s.bitIndex.toNat
  else .lockedNormal s.bitIndex.toNat

end Sys2Proof.Machine
end

