-- ==== Sys2Proof/Machine/ByteAssembler.lean ====
section
/-!
DEFINITION. The byte assembler with bit-serial shift-in (42_byte_assembler.md).
-/

namespace Sys2Proof.Machine

/-- `bitsNeeded()`: the slot length (R162, 30_encoding.md R87). -/
def bitsNeeded (s : State) : Nat := if s.ignoreHeaders then s.cfg.ignoreSlotBits else byteBits

/-- The accumulator after one more bit: shifted left, the new bit at bit 0 (R161). -/
def shiftByte (t : Byte) (bit : Bool) : Byte := t <<< 1 ||| (BitVec.ofBool bit).setWidth 8

/-- `escape(b)`: one or two output bytes, marker before transformed value (R164, 30_encoding.md R89). -/
def escape (c : Config) (b : Byte) : List Byte :=
  if c.escapeEnable && needsEscape c b then [c.escMarker, b ^^^ c.escXor] else [b]

/-- `match_sync(b)`: the naive marker matcher, fed the byte before escape coding (R167). -/
def matchSync (b : Byte) (s : State) : State := s.setMatcher (foundAfter s b) (matchIdxAfter s b)

/-- `next_state()` (R168). -/
def nextState (s : State) : State :=
  let s := s.setSlot 0 0
  if s.ignoreHeaders then
    let s := s.setSlotsLeft (s.slotsLeft - 1)
    if s.slotsLeft = 0 then (s.setIgnoreHeaders false).resumeSearch else s
  else if s.cfg.byteTiming && s.sqanHeaderFound && decide (0 < s.cfg.timingInterval) then
    (s.setIgnoreHeaders true).setSlotsLeft (BitVec.ofNat 8 s.cfg.timingInterval)
  else s.resumeSearch

/-- `complete_byte()`: escape, append, match, next state, in that order (R163, R171). -/
def completeByte (s : State) : State :=
  nextState (matchSync s.tempByte (appendAll s (escape s.cfg s.tempByte)))

/-- `assemble_step(bit)` (R160, R161): no check of the bits, no timeout (R170). -/
def assembleStep (bit : Bool) (s : State) : State :=
  let s := s.setSlot (shiftByte s.tempByte bit) (s.bitIndex + 1)
  if s.bitIndex.toNat = bitsNeeded s then completeByte s else s

end Sys2Proof.Machine
end

