-- ==== Sys2Proof/Machine/HeaderDetector.lean ====
section
/-!
DEFINITION. The header/frame detector (41_header_detector.md).
-/

namespace Sys2Proof.Machine

/-- The window after one more bit: shifted left, the new bit at bit 0, masked to W bits (R141). -/
def shiftWindow (c : Config) (w : BitVec 12) (bit : Bool) : BitVec 12 :=
  (w <<< 1 ||| (BitVec.ofBool bit).setWidth 12) &&& mask c

/-- `search_step(bit)` (R140, R141, R143, R144): the compare uses the window after the shift. The search has no length
limit and keeps no memory but the window, which nothing empties (R145, R147, R149). -/
def searchStep (bit : Bool) (s : State) : State :=
  let s := s.setWindow (shiftWindow s.cfg s.window bit)
  if s.window = headerWord s.cfg then s.lock false
  else if s.window = inverseHeader s.cfg then s.lock true
  else s

end Sys2Proof.Machine
end

