-- ==== Sys2Proof/Machine/Sample.lean ====
section
/-!
DEFINITION. The `SAMPLE` operation (40_bit_synchronizer.md R110).
-/

namespace Sys2Proof.Machine

/-- The bit decision of a sample: classified against the old baseline, polarity of the old state (R113, R114,
60_exceptions.md R224). -/
def sampleBit (iRaw qRaw : Half) (s : State) : Bool :=
  applyPolarity s (classify (sampleAmplitude iRaw qRaw) s.amplitudeLast)

/-- The state after one sample: the threshold update (R115), then exactly one stage step, chosen by the state
before it (R110). -/
def sampleNext (iRaw qRaw : Half) (s : State) : State :=
  let s' := s.setAmplitudeLast (baseline s.cfg (sampleAmplitude iRaw qRaw))
  if s.isReadingHeader then searchStep (sampleBit iRaw qRaw s) s' else assembleStep (sampleBit iRaw qRaw s) s'

/-- `SAMPLE i_raw, q_raw`: defined for every operand and every state (R110). -/
def execSample (iRaw qRaw : Half) (s : State) : Host.Outcome State Fault Refusal := .next (sampleNext iRaw qRaw s)

end Sys2Proof.Machine
end

