-- ==== Sys2Proof/Machine/ScanControl.lean ====
section
/-!
DEFINITION. `NOP`, `SCAN_END` and the reserved operation (43_scan_control.md).
-/

namespace Sys2Proof.Machine

/-- `NOP`: nothing changes (R200). -/
def execNop (s : State) : Host.Outcome State Fault Refusal := .next s

/-- `SCAN_END`: the flush record from the state before the clears, then the clears (R201, R203, R204). The fault
arises only where `dataoutIndex` counts a cell that is not there, which no run reaches (20_memory.md R63). -/
def execScanEnd (s : State) : Host.Outcome State Fault Refusal :=
  match readCells s.cfg s.dataout s.dataoutIndex with
  | .error f => .fault f
  | .ok bytes => .next ((s.emitRecord (flushRecord s bytes)).clearScan)

/-- The reserved operation code: "this spec gives it none" of a meaning, and a model refuses it (30_encoding.md
R82, 43_scan_control.md R206). -/
def execReserved3 (_s : State) : Host.Outcome State Fault Refusal := .refused .reservedOperation

end Sys2Proof.Machine
end

