-- ==== Sys2Proof/Machine/Dispatch.lean ====
section
/-!
DEFINITION. One arm per operation (30_encoding.md R81).
-/

namespace Sys2Proof.Machine

def exec (i : Instr) (s : State) : Host.Outcome State Fault Refusal :=
  match i with
  | .nop => Sys2Proof.Machine.execNop s
  | .sample iRaw qRaw => Sys2Proof.Machine.execSample iRaw qRaw s
  | .scanEnd => Sys2Proof.Machine.execScanEnd s
  | .reserved3 => Sys2Proof.Machine.execReserved3 s

end Sys2Proof.Machine
end

