-- ==== Sys2Proof/WellFormed.lean ====
section
/-!
DEFINITION. Which operations an environment may present. (The legality of a configuration is the other
well-formedness check of the spec: Machine/ConfigRules.lean.)
-/

namespace Sys2Proof

/-- An operation the environment may present: every one but the reserved operation code, which "the environment
must never present" (30_encoding.md R82). Every s16 value of the operands of `SAMPLE` is allowed (R110, R267). -/
def Instr.wellFormed : Instr → Bool
  | .nop => true
  | .sample _ _ => true
  | .scanEnd => true
  | .reserved3 => false

end Sys2Proof
end

