-- ==== Sys2Proof/Decode.lean ====
section
/-!
DEFINITION. The decoder of the 34-bit input word and the encoder (30_encoding.md R80, R81, R91).
-/

namespace Sys2Proof

/-- Why a bit pattern is no input word. -/
inductive DecodeRefusal where
  /-- Raised by `decodeBits` for a pattern with a bit at position 34 or above: the word has 34 bits and one
  length (30_encoding.md R80). Safe. -/
  | widerThanInputWord
deriving DecidableEq, Repr

/-- `cmd`, bits [33:32] (R80). -/
def cmdField (w : InputWord) : BitVec 2 := w.extractLsb' 32 2

/-- `i_raw`, bits [31:16] (R80). -/
def iRawField (w : InputWord) : Half := w.extractLsb' 16 16

/-- `q_raw`, bits [15:0] (R80). -/
def qRawField (w : InputWord) : Half := w.extractLsb' 0 16

/-- The operation a word stands for: total on the 34-bit words (R81). The reserved code decodes to its own row,
whose meaning refuses it (R82). -/
def decode (w : InputWord) : Instr :=
  match (cmdField w).toNat with
  | 0 => .nop
  | 1 => .sample (iRawField w) (qRawField w)
  | 2 => .scanEnd
  | _ => .reserved3

/-- The decoder on an arbitrary bit pattern: rejects by name what is no 34-bit word. -/
def decodeBits (n : Nat) : Except DecodeRefusal Instr :=
  if n < 2 ^ 34 then .ok (decode (BitVec.ofNat 34 n)) else .error .widerThanInputWord

/-- The word with the three given fields, `cmd` highest (R80). -/
def inputWord (cmd : BitVec 2) (iRaw qRaw : Half) : InputWord := cmd ++ iRaw ++ qRaw

/-- The canonical word of an operation: the operand fields that it ignores are zero (R80, R91). -/
def encode : Instr → InputWord
  | .nop => inputWord 0 0 0
  | .sample iRaw qRaw => inputWord 1 iRaw qRaw
  | .scanEnd => inputWord 2 0 0
  | .reserved3 => inputWord 3 0 0

/-- The operation the decoder reads from the low `nbits` bits of `w`, numbered as spec/opcode_table.json numbers
them; the bits above are zero. -/
def decodeTableWord (nbits w : Nat) : Option Instr :=
  match decodeBits (w % 2 ^ nbits) with
  | .ok i => some i
  | .error _ => none

end Sys2Proof
end

