-- ==== Sys2Proof/Machine/Fetch.lean ====
section
/-!
DEFINITION. What one step takes from the input port (30_encoding.md R80, 70_reset_and_hazards.md R250): a reset,
an operation to run, or a reason to refuse the run.
-/

namespace Sys2Proof.Machine

/-- What the head of the input stream asks for. -/
inductive Fetched where
  /-- The step is a reset; the state after it. -/
  | reset (t : State)
  /-- The step runs an operation, from the state with the item taken from the stream. -/
  | run (i : Instr) (t : State)
  /-- The step is refused. -/
  | stop (r : Refusal)
deriving DecidableEq, Repr

/-- Take the next input item. The end of the stream is the end of the run (60_exceptions.md R231); `rst` has
priority over the word (70_reset_and_hazards.md R250); a word is taken only under the configuration in force
since reset (00_scope.md R13, 20_memory.md R73) and only if that is legal (30_encoding.md R93, R253). -/
def fetch (s : State) : Fetched :=
  match s.input with
  | [] => .stop .endOfInput
  | x :: rest =>
    if x.rst then .reset (resetStep s x.cfg rest)
    else if x.cfg ≠ s.cfg then .stop .configurationChanged
    else if configLegal s.cfg then .run (decode x.word) (s.setInput rest)
    else .stop .illegalConfiguration

/-- The input item that presents a word under the configuration in force, `rst` released. -/
def wordStep (c : Config) (w : InputWord) : InputStep := { rst := false, cfg := c, word := w }

/-- `s` with the 34-bit word `w mod 2^nbits` as the next input item. -/
def presentWord (s : State) (nbits w : Nat) : State :=
  s.setInput (wordStep s.cfg (BitVec.ofNat 34 (w % 2 ^ nbits)) :: s.input)

end Sys2Proof.Machine
end

