-- ==== Sys2Proof/Machine/Step.lean ====
section
/-!
DEFINITION. One step of the machine: one input item (70_reset_and_hazards.md R268).
-/

namespace Sys2Proof.Machine

/-- One step: a reset, or one operation run to completion (00_scope.md R2, 20_memory.md R70). -/
def step (s : State) : Host.Outcome State Fault Refusal :=
  match fetch s with
  | .reset t => .next t
  | .run i t => exec i t
  | .stop r => .refused r

/-- `s` with an input word where the next step takes it: at the head of the input stream, presented under the
configuration in force, `rst` released (log entry 1). -/
def State.withFetchWord (s : State) (nbits w : Nat) : State := presentWord s nbits w

end Sys2Proof.Machine
end

