-- ==== Sys2Proof/Machine/Environment.lean ====
section
/-!
DEFINITION. The environment's side of the interface, so that statements can speak of it: the pseudo-operations of
30_encoding.md R92 (the line code of R85) and the host-side decoder of 42_byte_assembler.md R172. None of this
is part of the block.
-/

namespace Sys2Proof.Machine

/-- `TXBIT b` with test amplitude `a` (R92). The negated amplitude gives `ITXBIT b`, the inverted link. -/
def txBit (a : Half) (b : Bool) : Instr := .sample (if b then a else -a) 0

/-- `TXHDR`: the W header bits, bit W-1 first (R92, R86). -/
def txHeader (c : Config) (a : Half) : List Instr :=
  (List.range c.headerWidth).map fun k => txBit a (c.header.testBit (c.headerWidth - 1 - k))

/-- `TXBYTE v`: the 8 bits of the byte, bit 7 first (R92). -/
def txByte (a : Half) (v : Byte) : List Instr := (List.range 8).map fun k => txBit a (v.getMsbD k)

/-- `TXFRAME v` (R92). -/
def txFrame (c : Config) (a : Half) (v : Byte) : List Instr := txHeader c a ++ txByte a v

/-- `SILENCE k` (R92). -/
def silence (k : Nat) : List Instr := List.replicate k (.sample 0 0)

/-- `ITXBIT`, `ITXHDR`, `ITXBYTE`, `ITXFRAME`: the same with every amplitude negated (R92). -/
def itxBit (a : Half) (b : Bool) : Instr := txBit (-a) b
def itxHeader (c : Config) (a : Half) : List Instr := txHeader c (-a)
def itxByte (a : Half) (v : Byte) : List Instr := txByte (-a) v
def itxFrame (c : Config) (a : Half) (v : Byte) : List Instr := txFrame c (-a) v

/-- The input items that present these operations under configuration `c`. -/
def stimulus (c : Config) (is : List Instr) : List InputStep := is.map fun i => wordStep c (encode i)

/-- The host-side decoder of an escaped byte stream (R172): a marker is dropped and the next byte is transformed
back; a marker at the end has no partner and is dropped (70_reset_and_hazards.md R264; log entry 14). -/
def hostDecode (c : Config) : List Byte → List Byte
  | [] => []
  | [b] => if b = c.escMarker then [] else [b]
  | b :: x :: rest =>
    if b = c.escMarker then (x ^^^ c.escXor) :: hostDecode c rest else b :: hostDecode c (x :: rest)

end Sys2Proof.Machine
end

