-- ==== Sys2Proof/Safety.lean ====
section
/-!
DEFINITION. What a safe state and a safe run are, in the terms the statements use: the state invariants of
10_state.md, the input streams an environment may present, and the relations between two runs.
-/

namespace Sys2Proof.Machine

/-- The invariants the spec gives the registers, and what `dataout` must hold for a flush to be defined. Every
reachable state has them. -/
structure State.Inv (s : State) : Prop where
  /-- Only the low W bits of `window` are ever non-zero (10_state.md R23). -/
  windowMasked : s.window.toNat < 2 ^ s.cfg.headerWidth
  /-- `0 <= bitIndex < bitsNeeded` between operations (R25). -/
  slotOpen : s.bitIndex.toNat < bitsNeeded s
  /-- `bitIndex = 0` and `tempByte = 0` whenever SEARCHING (R25, R26). -/
  searchingIdle : s.isReadingHeader = true → s.bitIndex = 0 ∧ s.tempByte = 0
  /-- `ignoreHeaders` implies LOCKED (R27). -/
  ignoreLocked : s.ignoreHeaders = true → s.isReadingHeader = false
  /-- `slotsLeft >= 1` exactly when `ignoreHeaders` (R28). -/
  slotsCounted : 1 ≤ s.slotsLeft.toNat ↔ s.ignoreHeaders = true
  /-- `slotsLeft` is loaded with `TIMING_INTERVAL` and only counts down (R28). -/
  slotsBounded : s.slotsLeft.toNat ≤ s.cfg.timingInterval
  /-- `dataoutIndex` never exceeds CAP (R30). -/
  indexInside : s.dataoutIndex ≤ s.cfg.dataoutCapacity
  /-- The memory keeps its canonical form. -/
  memoryWf : Memory.wf s.dataout = true
  /-- No cell outside the address space is ever written (20_memory.md R60, R62). -/
  cellsInside : ∀ cell ∈ s.dataout, cell.1 < s.cfg.dataoutCapacity
  /-- Every cell that a flush reads has been written (20_memory.md R63). -/
  cellsWritten : ∀ k < s.dataoutIndex, (memLookup s.dataout k).isSome = true

/-- An input stream the environment may present while configuration `c` is in force: every word comes under an
unchanged legal configuration and is no reserved operation; a step with `rst` may apply another configuration
(00_scope.md R13, 30_encoding.md R82, R93, 70_reset_and_hazards.md R253). -/
def inputLegal : Config → List InputStep → Bool
  | _, [] => true
  | c, x :: xs =>
    if x.rst then inputLegal x.cfg xs
    else decide (x.cfg = c) && configLegal c && (decode x.word).wellFormed && inputLegal c xs

/-- The item presents a `SCAN_END`. -/
def isScanEnd (x : InputStep) : Bool := !x.rst && decide (decode x.word = .scanEnd)

/-- The item presents a `NOP`. -/
def isNop (x : InputStep) : Bool := !x.rst && decide (decode x.word = .nop)

/-- The bytes of the current scan, as a flush would read them (43_scan_control.md R203). -/
def contents (s : State) : Except Fault (List Byte) := readCells s.cfg s.dataout s.dataoutIndex

/-- Two states that differ at most in `dataout` cells that no flush can read: those at or above `dataoutIndex`
(20_memory.md R63, 93_implementation_defined.md U12). -/
structure EqualButDeadCells (s u : State) : Prop where
  rest : u = { s with dataout := u.dataout }
  live : ∀ k < s.dataoutIndex, memLookup u.dataout k = memLookup s.dataout k

/-- Two states on links of opposite polarity (41_header_detector.md R148): the windows are complements, while LOCKED
the inversion flags are opposite, and all the rest but the threshold baseline and the input is equal. -/
structure MirrorImages (s u : State) : Prop where
  window : u.window = ~~~s.window &&& mask s.cfg
  masked : s.window = s.window &&& mask s.cfg
  phase : u.isReadingHeader = s.isReadingHeader
  polarity : s.isReadingHeader = false → u.isSignalInverted = !s.isSignalInverted
  rest : u = { s with
    amplitudeLast := u.amplitudeLast, window := u.window, isSignalInverted := u.isSignalInverted, input := u.input }

/-- The operation with every amplitude negated: the same link, inverted (30_encoding.md R88, R92). -/
def negated : Instr → Instr
  | .nop => .nop
  | .sample iRaw qRaw => .sample (-iRaw) (-qRaw)
  | .scanEnd => .scanEnd
  | .reserved3 => .reserved3

/-- Every sample of normalised magnitude `16 * a` is classified by its sign alone from here on
(40_bit_synchronizer.md R121). -/
def signDecides (a : Nat) (s : State) : Prop := -(16 * a : Int) < s.amplitudeLast.toInt ∧ s.amplitudeLast.toInt ≤ 16 * a

/-- Two states that differ at most in the capacity of `dataout`: the smaller buffer `s` holds the first CAP bytes of
what the larger one `u` holds, and its `overflow` says whether that is less than all (42_byte_assembler.md R173). -/
structure TruncationOf (s u : State) : Prop where
  rest : u = { s with
    dataout := u.dataout, dataoutIndex := u.dataoutIndex, overflow := u.overflow,
    cfg := { s.cfg with dataoutCapacity := u.cfg.dataoutCapacity } }
  index : s.dataoutIndex = min s.cfg.dataoutCapacity u.dataoutIndex
  bytes : ∀ k < s.dataoutIndex, memLookup s.dataout k = memLookup u.dataout k
  dropped : s.overflow = decide (s.cfg.dataoutCapacity < u.dataoutIndex)

/-- The samples still to be read in ignore-headers mode before the block returns to SEARCHING
(70_reset_and_hazards.md R260). -/
def blindSamples (s : State) : Nat := s.slotsLeft.toNat * s.cfg.ignoreSlotBits - s.bitIndex.toNat

/-- `n` steps of the machine, stopping at the first fault or refusal. -/
def runSteps (n : Nat) (s : State) : Host.Outcome State Fault Refusal := Host.Core.run Sys2Proof.core n s

/-! ### The arithmetic of the rules, as the statements say it -/

/-- The raw bit of a sample: 1 exactly when its amplitude is at or above the baseline (40_bit_synchronizer.md R113). -/
def rawBit (iRaw : Half) (s : State) : Bool := decide (s.amplitudeLast.toInt ≤ (iRaw <<< 4).toInt)

/-- The bit of a sample while LOCKED: the raw bit, flipped on an inverted link (R114). -/
def lockedBit (iRaw : Half) (s : State) : Bool := rawBit iRaw s != s.isSignalInverted

/-- The baseline a sample leaves: its amplitude times the percentage, over 100, toward zero (R115). -/
def newBaseline (iRaw : Half) (s : State) : Half :=
  BitVec.ofInt 16 (((iRaw <<< 4).toInt * s.cfg.percentLast).tdiv 100)

/-- The number in the window after a sample while SEARCHING (41_header_detector.md R141). -/
def windowAfter (iRaw : Half) (s : State) : Nat :=
  (2 * s.window.toNat + (rawBit iRaw s).toNat) % 2 ^ s.cfg.headerWidth

/-- The accumulator after a sample while LOCKED (42_byte_assembler.md R161). -/
def slotByte (iRaw : Half) (s : State) : Byte := BitVec.ofNat 8 (2 * s.tempByte.toNat + (lockedBit iRaw s).toNat)

/-- The next sample is the last of its byte slot (R161, R162). -/
def lastOfSlot (s : State) : Prop :=
  s.isReadingHeader = false ∧ s.bitIndex.toNat + 1 = if s.ignoreHeaders then s.cfg.ignoreSlotBits else 8

/-- The byte is in the reserved set (R165). -/
def reservedByte (c : Config) (b : Byte) : Prop := b.toNat < 32 ∨ b ∈ c.escExtra

/-- A naive left-to-right scan for `s0 s1` (42_byte_assembler.md R167): after `s0` the next byte either completes the
marker or is passed over with it, even if it is `s0` again. -/
def naiveFound (s0 s1 : Byte) : List Byte → Bool
  | [] => false
  | [_] => false
  | a :: b :: rest => if a = s0 then decide (b = s1) || naiveFound s0 s1 rest else naiveFound s0 s1 (b :: rest)

/-- The number in the window after the first `k` header bits of a link of polarity `inv`, from the number `w`
(30_encoding.md R86, R92). -/
def lineWindow (c : Config) (inv : Bool) (w : Nat) : Nat → Nat
  | 0 => w
  | k + 1 => (2 * lineWindow c inv w k + (c.header.testBit (c.headerWidth - 1 - k) != inv).toNat) % 2 ^ c.headerWidth

/-- No header pattern is complete before the last header bit (41_header_detector.md R149). -/
def noEarlyMatch (c : Config) (inv : Bool) (w : Nat) : Prop :=
  ∀ k, 0 < k → k < c.headerWidth →
    lineWindow c inv w k ≠ c.header ∧ lineWindow c inv w k ≠ 2 ^ c.headerWidth - 1 - c.header

/-- The test amplitude as a link of polarity `inv` sends it (30_encoding.md R92). -/
def linkAmplitude (a : Nat) (inv : Bool) : Half := if inv then -BitVec.ofNat 16 a else BitVec.ofNat 16 a

end Sys2Proof.Machine
end

