-- ==== Sys2Proof/Certificates/Slice0/Obligations.lean ====
section
/-!
DEFINITION. The statements for the provers. Each docstring names the rules of spec/ it formalises.
-/

open Sys2Proof Sys2Proof.Machine

/-! ### Encoding -/

/-- Words of 95_test_vectors.md section 3 decode to the operations they stand for (30_encoding.md R80, R81, R91). -/
def Obligations.SpecWordsDecode : Prop :=
  decode 0x000000000 = .nop ∧ decode 0x0FFFFFFFF = .nop ∧
  decode 0x103E80000 = .sample 1000 0 ∧ decode 0x1FC180000 = .sample (-1000) 0 ∧
  decode 0x103E8FFFD = .sample 1000 (-3) ∧ decode 0x100000000 = .sample 0 0 ∧
  decode 0x200000000 = .scanEnd ∧ decode 0x212345678 = .scanEnd ∧ decode 0x300000000 = .reserved3

/-- Decode and encode agree: every operation with every operand value comes back from its word, and every word
comes back from its operation but for the operand fields the operation ignores, which the canonical spelling has
zero (30_encoding.md R80, R81). -/
def Obligations.DecodeEncodeAgree : Prop :=
  (∀ i : Instr, decode (encode i) = i) ∧
  ∀ w : InputWord, (encode (decode w)).toNat =
    if w.toNat / 2 ^ 32 = 1 then w.toNat else w.toNat / 2 ^ 32 * 2 ^ 32

/-- The decoder reads `cmd` from bits [33:32], `i_raw` from [31:16], `q_raw` from [15:0], for every word (30_encoding.md
R80, R81). -/
def Obligations.DecodeReadsFieldsByPosition : Prop :=
  ∀ w : InputWord, decode w =
    if w.toNat / 2 ^ 32 = 0 then .nop
    else if w.toNat / 2 ^ 32 = 1 then .sample (BitVec.ofNat 16 (w.toNat / 2 ^ 16 % 2 ^ 16)) (BitVec.ofNat 16 (w.toNat % 2 ^ 16))
    else if w.toNat / 2 ^ 32 = 2 then .scanEnd
    else .reserved3

/-! ### NOP, the reserved code, and what a step takes from its input -/

/-- 43_scan_control.md R200: every word with `cmd = 0b00`, whatever its operand fields, is a `NOP`, and a `NOP` completes
in every state and changes nothing. -/
def Obligations.NopChangesNothing : Prop :=
  ∀ (w : InputWord) (s : State), w.toNat / 2 ^ 32 = 0 → decode w = .nop ∧ exec (decode w) s = .next s

/-- A word with `cmd = 0b11` has no meaning (30_encoding.md R82, 43_scan_control.md R206): its operation is refused in
every state, and so is every step that takes such a word. The rules say that a model refuses it; that the refusal
comes at the step which takes the word, and its name, are the model's choice (log entry 10). -/
def Obligations.ReservedCodeRefused : Prop :=
  (∀ (w : InputWord) (s : State), w.toNat / 2 ^ 32 = 3 → exec (decode w) s = .refused .reservedOperation) ∧
  ∀ (s : State) (x : InputStep) (rest : List InputStep), s.input = x :: rest → x.rst = false →
    x.word.toNat / 2 ^ 32 = 3 → ∃ r, step s = .refused r

/-- A step runs the decoded operation: an input item with `rst` released, under the legal configuration in force, is
taken from the stream and the operation of its word runs to completion (70_reset_and_hazards.md R268; the stream is
the model's, log entry 1). -/
def Obligations.StepRunsDecodedWord : Prop :=
  ∀ (s : State) (x : InputStep) (rest : List InputStep) (i : Instr), s.input = x :: rest → x.rst = false →
    x.cfg = s.cfg → configLegal s.cfg = true → decode x.word = i → step s = exec i { s with input := rest }

/-- 70_reset_and_hazards.md R250, R251: with `rst` asserted the word of the step is ignored, no record is produced and
every register has its reset value. -/
def Obligations.ResetStepGivesResetState : Prop :=
  ∀ (s : State) (x : InputStep) (rest : List InputStep), s.input = x :: rest → x.rst = true →
    ∃ t, step s = .next t ∧ (∀ w : InputWord, step { s with input := { x with word := w } :: rest } = .next t) ∧
      t.flushes = s.flushes ∧ t.amplitudeLast = 0 ∧ t.isReadingHeader = true ∧ t.window = 0 ∧
      t.isSignalInverted = false ∧ t.bitIndex = 0 ∧ t.tempByte = 0 ∧ t.ignoreHeaders = false ∧ t.slotsLeft = 0 ∧
      t.dataoutIndex = 0 ∧ t.sqanHeaderFound = false ∧ t.matchIdx = 0 ∧ t.overflow = false

/-- The illegal configurations are exactly those with a value that 30_encoding.md R93 reserves, and under one of them no
word is taken. R93 says that a model refuses the configuration; that the step which presents a word is the one
refused (a step with `rst` is not), and the name of the refusal, are the model's choice (log entry 4). -/
def Obligations.IllegalConfigurationRefused : Prop :=
  (∀ c : Config, configLegal c = false ↔
    (c.headerWidth ≠ 8 ∧ c.headerWidth ≠ 9 ∧ c.headerWidth ≠ 11 ∧ c.headerWidth ≠ 12) ∨ 100 < c.percentLast ∨
    c.ampMode ≠ .iOnly ∨ c.noiseFloor ≠ 0 ∨ c.ignoreSlotBits < 8 ∨ 31 < c.ignoreSlotBits ∨ 255 < c.timingInterval ∨
    c.dataoutCapacity < 1 ∨ 2 ^ c.headerWidth - 1 < c.header ∨
    (c.escapeEnable = true ∧
      (¬reservedByte c c.escMarker ∨ ∃ b : Byte, reservedByte c b ∧ reservedByte c (b ^^^ c.escXor)))) ∧
  ∀ (s : State) (x : InputStep) (rest : List InputStep), s.input = x :: rest → x.rst = false → x.cfg = s.cfg →
    configLegal s.cfg = false → step s = .refused .illegalConfiguration

/-- The configuration is constant from reset release to the next reset: a step that presents another one is refused
(20_memory.md R73; that the step names this refusal is the model's choice, log entry 4), and a step with `rst` puts
the one it presents in force (R253, log entry 2). -/
def Obligations.ConfigurationChangesOnlyAtReset : Prop :=
  (∀ (s : State) (x : InputStep) (rest : List InputStep), s.input = x :: rest → x.rst = false → x.cfg ≠ s.cfg →
    step s = .refused .configurationChanged) ∧
  (∀ (s t : State) (x : InputStep) (rest : List InputStep), s.input = x :: rest → step s = .next t →
    t.cfg = x.cfg ∧ t.input = rest)

/-- The end of the input stream is the end of the run (60_exceptions.md R231; the name of the refusal is the model's
choice, log entry 8). -/
def Obligations.RunEndsWithInput : Prop :=
  ∀ s : State, step s = .refused .endOfInput ↔ s.input = []

/-! ### The bit synchronizer -/

/-- 30_encoding.md R84: the components are shifted left by 4 and kept to 16 bits, and only the low 12 bits of each
influence the result of a `SAMPLE`. -/
def Obligations.OnlyLowTwelveBitsCount : Prop :=
  (∀ iRaw qRaw : Half, normalise iRaw qRaw = (BitVec.ofInt 16 (16 * iRaw.toInt), BitVec.ofInt 16 (16 * qRaw.toInt)) ∧
    amplitude (normalise iRaw qRaw) = BitVec.ofInt 16 (16 * iRaw.toInt)) ∧
  (∀ iRaw : Half, -2048 ≤ iRaw.toInt → iRaw.toInt ≤ 2047 → (sampleAmplitude iRaw 0).toInt = 16 * iRaw.toInt) ∧
  ∀ (iRaw iRaw' qRaw qRaw' : Half) (s : State), iRaw.toNat % 4096 = iRaw'.toNat % 4096 →
    exec (.sample iRaw qRaw) s = exec (.sample iRaw' qRaw') s

/-- 40_bit_synchronizer.md R115: every `SAMPLE` completes and leaves the percentage of its own amplitude, rounded toward
zero, as the baseline; no other operation writes the baseline. -/
def Obligations.SampleLeavesBaselineOfItsAmplitude : Prop :=
  (∀ (iRaw qRaw : Half) (s : State), s.cfg.percentLast ≤ 100 → ∃ t, exec (.sample iRaw qRaw) s = .next t ∧
    t.amplitudeLast.toInt = ((iRaw <<< 4).toInt * s.cfg.percentLast).tdiv 100) ∧
  (∀ s t : State, exec .nop s = .next t → t.amplitudeLast = s.amplitudeLast) ∧
  (∀ s t : State, exec .scanEnd s = .next t → t.amplitudeLast = s.amplitudeLast)

/-- The laws of the percentage (40_bit_synchronizer.md R116): the baseline never exceeds the amplitude in magnitude, has
its sign, is odd in it, and at 100 percent is the amplitude. -/
def Obligations.BaselineArithmetic : Prop :=
  ∀ (c : Config) (amp : Half), c.percentLast ≤ 100 →
    (baseline c amp).toInt.natAbs ≤ amp.toInt.natAbs ∧
    (0 ≤ amp.toInt → 0 ≤ (baseline c amp).toInt) ∧ (amp.toInt ≤ 0 → (baseline c amp).toInt ≤ 0) ∧
    (amp.toInt ≠ -32768 → (baseline c (-amp)).toInt = -(baseline c amp).toInt) ∧
    (c.percentLast = 100 → baseline c amp = amp)

/-- The quadrature component is unused (40_bit_synchronizer.md R118). -/
def Obligations.QuadratureUnused : Prop :=
  ∀ (iRaw qRaw qRaw' : Half) (s : State), exec (.sample iRaw qRaw) s = exec (.sample iRaw qRaw') s

/-- Constant input (40_bit_synchronizer.md R119): after the first of two equal samples the second is a raw 1 when its
amplitude is not negative or the percentage is 100, and a raw 0 when it is negative and the percentage is below. -/
def Obligations.ConstantInputBits : Prop :=
  ∀ (iRaw qRaw : Half) (s t : State), s.cfg.percentLast ≤ 100 → exec (.sample iRaw qRaw) s = .next t →
    (0 ≤ (iRaw <<< 4).toInt ∨ s.cfg.percentLast = 100 → rawBit iRaw t = true) ∧
    ((iRaw <<< 4).toInt < 0 ∧ s.cfg.percentLast < 100 → rawBit iRaw t = false)

/-- The alternating line code (40_bit_synchronizer.md R121): once a baseline is within the test amplitude, every sample of
that magnitude is classified by its sign, and leaves a baseline within it again. -/
def Obligations.LineCodeClassifiedBySign : Prop :=
  ∀ (a : Nat) (b : Bool) (q : Half) (s : State), 1 ≤ a → a ≤ 2047 → s.cfg.percentLast < 100 → signDecides a s →
    rawBit (linkAmplitude a !b) s = b ∧
    ∃ t, exec (.sample (linkAmplitude a !b) q) s = .next t ∧ signDecides a t

/-- Silence (40_bit_synchronizer.md R122): a zero sample is a raw 0 exactly after a positive baseline, and every zero
sample after the first is a raw 1. -/
def Obligations.SilenceBits : Prop :=
  ∀ (q : Half) (s : State),
    (rawBit 0 s = false ↔ 0 < s.amplitudeLast.toInt) ∧
    ∃ t, exec (.sample 0 q) s = .next t ∧ t.amplitudeLast = 0 ∧ rawBit 0 t = true

/-! ### The header detector -/

/-- The two header patterns differ in every bit, so at most one equals the window (41_header_detector.md R142). -/
def Obligations.HeaderPatternsComplementary : Prop :=
  ∀ c : Config, configLegal c = true →
    (headerWord c).toNat = c.header ∧ (inverseHeader c).toNat = 2 ^ c.headerWidth - 1 - c.header ∧
    (∀ k < c.headerWidth, (inverseHeader c).getLsbD k = !(headerWord c).getLsbD k) ∧ headerWord c ≠ inverseHeader c

/-- 41_header_detector.md R141, R143, R144: a `SAMPLE` while SEARCHING completes; it shifts its raw bit into the window,
and a window equal to `HEADER` or `INVERSE_HEADER` after the shift locks the block with the polarity recorded, the bit
index and the accumulator cleared; without a match the block stays SEARCHING. Nothing else changes. -/
def Obligations.SearchStepShiftsAndCompares : Prop :=
  ∀ (iRaw qRaw : Half) (s : State), configLegal s.cfg = true → s.isReadingHeader = true →
    (windowAfter iRaw s = s.cfg.header → exec (.sample iRaw qRaw) s = .next { s with
      amplitudeLast := newBaseline iRaw s, window := BitVec.ofNat 12 (windowAfter iRaw s),
      isReadingHeader := false, isSignalInverted := false, bitIndex := 0, tempByte := 0 }) ∧
    (windowAfter iRaw s = 2 ^ s.cfg.headerWidth - 1 - s.cfg.header → exec (.sample iRaw qRaw) s = .next { s with
      amplitudeLast := newBaseline iRaw s, window := BitVec.ofNat 12 (windowAfter iRaw s),
      isReadingHeader := false, isSignalInverted := true, bitIndex := 0, tempByte := 0 }) ∧
    (windowAfter iRaw s ≠ s.cfg.header ∧ windowAfter iRaw s ≠ 2 ^ s.cfg.headerWidth - 1 - s.cfg.header →
      exec (.sample iRaw qRaw) s = .next { s with
        amplitudeLast := newBaseline iRaw s, window := BitVec.ofNat 12 (windowAfter iRaw s) }) ∧
    (s.Inv → s.ignoreHeaders = false ∧ s.slotsLeft = 0)

/-- The first sample after reset (40_bit_synchronizer.md R120; 41_header_detector.md R149 (a)): it is a raw 1 exactly
when its amplitude is not negative; the window then holds that one bit under zeros, and the block is LOCKED already
when that is one of the two patterns. -/
def Obligations.FirstSampleAfterReset : Prop :=
  ∀ (c : Config) (xs : List InputStep) (rs : List FlushRecord) (iRaw qRaw : Half) (r : Nat), configLegal c = true →
    r = (if (0 : Int) ≤ (iRaw <<< 4).toInt then 1 else 0) →
    (rawBit iRaw (State.resetWith c xs rs)).toNat = r ∧
    ∃ t, exec (.sample iRaw qRaw) (State.resetWith c xs rs) = .next t ∧ t.window.toNat = r ∧
      (t.isReadingHeader = false ↔ c.header = r ∨ c.header = 2 ^ c.headerWidth - 1 - r)

/-- The transitions of the synchronizer, as the sequencing state shows them (10_state.md R34, 41_header_detector.md R140,
42_byte_assembler.md R161, R168): only a `SAMPLE` moves it; SEARCHING becomes LOCKED at bit 0 on a match of either pattern
and on nothing else; LOCKED counts the bits of the slot and leaves it only at its last bit, to SEARCHING or to the
first bit of a slot in ignore-headers mode. -/
def Obligations.SequencingTransitions : Prop :=
  (∀ s t : State, exec .nop s = .next t → sequencing t = sequencing s) ∧
  (∀ s t : State, exec .scanEnd s = .next t → sequencing t = sequencing s) ∧
  ∀ (iRaw qRaw : Half) (s : State), s.Inv → configLegal s.cfg = true →
    ∃ t, exec (.sample iRaw qRaw) s = .next t ∧ sequencing t =
      match sequencing s with
      | .searching =>
        if windowAfter iRaw s = s.cfg.header ∨ windowAfter iRaw s = 2 ^ s.cfg.headerWidth - 1 - s.cfg.header then
          .lockedNormal 0
        else .searching
      | .lockedNormal k =>
        if k + 1 < 8 then .lockedNormal (k + 1)
        else if s.cfg.byteTiming = true ∧ t.sqanHeaderFound = true ∧ 0 < s.cfg.timingInterval then .lockedIgnore 0
        else .searching
      | .lockedIgnore k =>
        if k + 1 < s.cfg.ignoreSlotBits then .lockedIgnore (k + 1)
        else if s.slotsLeft = 1 then .searching
        else .lockedIgnore 0

/-! ### The byte assembler -/

/-- A `SAMPLE` while LOCKED that does not end its byte slot completes: it shifts its bit, polarity applied, into the
accumulator and counts it; nothing else but the baseline changes, the window and the memory stay as they are
(42_byte_assembler.md R161, 40_bit_synchronizer.md R114, 41_header_detector.md R146). -/
def Obligations.LockedSampleShiftsIn : Prop :=
  ∀ (iRaw qRaw : Half) (s : State), configLegal s.cfg = true → s.isReadingHeader = false →
    s.bitIndex.toNat + 1 < (if s.ignoreHeaders then s.cfg.ignoreSlotBits else 8) →
    exec (.sample iRaw qRaw) s = .next { s with
      amplitudeLast := newBaseline iRaw s, tempByte := slotByte iRaw s,
      bitIndex := BitVec.ofNat 5 (s.bitIndex.toNat + 1) }

/-- 42_byte_assembler.md R164 to R168: the `SAMPLE` that ends a byte slot completes. The byte is escaped if escape coding
applies to it; each output byte is stored at the next index while there is room and dropped with `overflow` set
otherwise; the byte itself, before escape coding and whether or not it was dropped, feeds the matcher, which on a
mismatch starts again without looking at the byte twice; then the slot is cleared and the block continues in
ignore-headers mode, enters it, or goes back to SEARCHING. Nothing else but the baseline changes, and no other byte
of the memory does. -/
def Obligations.ByteCompletionRunsFourSteps : Prop :=
  ∀ (iRaw qRaw : Half) (s : State) (b : Byte) (out : List Byte), configLegal s.cfg = true → lastOfSlot s →
    s.dataoutIndex ≤ s.cfg.dataoutCapacity → b = slotByte iRaw s →
    (s.cfg.escapeEnable = true ∧ reservedByte s.cfg b → out = [s.cfg.escMarker, b ^^^ s.cfg.escXor]) →
    (¬(s.cfg.escapeEnable = true ∧ reservedByte s.cfg b) → out = [b]) →
    ∃ t, exec (.sample iRaw qRaw) s = .next t ∧
      (∀ k (h : k < out.length), s.dataoutIndex + k < s.cfg.dataoutCapacity →
        memLookup t.dataout (s.dataoutIndex + k) = some out[k]) ∧
      (∀ k, k < s.dataoutIndex ∨ s.cfg.dataoutCapacity ≤ k ∨ s.dataoutIndex + out.length ≤ k →
        memLookup t.dataout k = memLookup s.dataout k) ∧
      t.dataoutIndex = min s.cfg.dataoutCapacity (s.dataoutIndex + out.length) ∧
      t.overflow = (s.overflow || decide (s.cfg.dataoutCapacity < s.dataoutIndex + out.length)) ∧
      t.sqanHeaderFound = (s.sqanHeaderFound || decide (s.matchIdx = 1 ∧ b = s.cfg.syncMarker1)) ∧
      t.matchIdx = (if s.matchIdx = 0 ∧ b = s.cfg.syncMarker0 then 1 else 0) ∧
      t.bitIndex = 0 ∧ t.tempByte = 0 ∧
      (if s.ignoreHeaders = true then
        if s.slotsLeft = 1 then t.slotsLeft = 0 ∧ t.ignoreHeaders = false ∧ t.isReadingHeader = true
        else t.slotsLeft = s.slotsLeft - 1 ∧ t.ignoreHeaders = true ∧ t.isReadingHeader = false
      else if s.cfg.byteTiming = true ∧ t.sqanHeaderFound = true ∧ 0 < s.cfg.timingInterval then
        t.slotsLeft.toNat = s.cfg.timingInterval ∧ t.ignoreHeaders = true ∧ t.isReadingHeader = false
      else t.slotsLeft = s.slotsLeft ∧ t.ignoreHeaders = false ∧ t.isReadingHeader = true) ∧
      t.amplitudeLast = newBaseline iRaw s ∧ t.window = s.window ∧ t.isSignalInverted = s.isSignalInverted ∧
      t.cfg = s.cfg ∧ t.input = s.input ∧ t.flushes = s.flushes

/-- The buffer holds the output bytes of the scan in completion order, cut at its capacity (20_memory.md R66,
42_byte_assembler.md R173): what a flush would read after any list of appends is the first CAP bytes of what it would
have read before followed by that list. -/
def Obligations.AppendsExtendContents : Prop :=
  ∀ (s : State) (bytes out : List Byte), contents s = .ok bytes → s.dataoutIndex ≤ s.cfg.dataoutCapacity →
    contents (appendAll s out) = .ok ((bytes ++ out).take s.cfg.dataoutCapacity)

/-- The matcher is a naive linear scanner (42_byte_assembler.md R167, 70_reset_and_hazards.md R262): over any sequence of
completed bytes it finds the marker exactly where a scan finds it that passes over the byte after a first marker
byte without looking at it twice; so a marker after a copy of its own first byte is missed. -/
def Obligations.MatcherIsNaive : Prop :=
  ∀ (s : State) (bytes : List Byte), s.matchIdx = 0 → s.sqanHeaderFound = false →
    (bytes.foldl (fun u b => matchSync b u) s).sqanHeaderFound = naiveFound s.cfg.syncMarker0 s.cfg.syncMarker1 bytes ∧
    (s.cfg.syncMarker0 ≠ s.cfg.syncMarker1 →
      ([s.cfg.syncMarker0, s.cfg.syncMarker0, s.cfg.syncMarker1].foldl (fun u b => matchSync b u) s).sqanHeaderFound = false)

/-- The escape round trip (42_byte_assembler.md R172, 95_test_vectors.md L1-1): under a legal configuration with escape
coding on, the host-side decoder recovers every byte sequence, and the transformed byte of an escape pair never needs
escaping itself. -/
def Obligations.EscapeRoundTrip : Prop :=
  ∀ c : Config, configLegal c = true → c.escapeEnable = true →
    (∀ bytes : List Byte, hostDecode c (bytes.flatMap (escape c)) = bytes) ∧
    (∀ b : Byte, reservedByte c b → escape c b = [c.escMarker, b ^^^ c.escXor] ∧ ¬reservedByte c (b ^^^ c.escXor)) ∧
    (∀ b : Byte, ¬reservedByte c b → escape c b = [b])

/-! ### The end of a scan -/

/-- 43_scan_control.md R201, R202, R203, R205: a word with `cmd = 0b10` is a `SCAN_END`; where the cells it counts are
there, it completes: it hands over all of them in one record with the emit condition, the marker flag and the
overflow flag of the state before, clears the per-scan registers and leaves the persistent state and the memory as
they are. No other operation produces a record. -/
def Obligations.ScanEndHandsOver : Prop :=
  (∀ w : InputWord, w.toNat / 2 ^ 32 = 2 → decode w = .scanEnd) ∧
  (∀ s : State, s.dataoutIndex ≤ s.cfg.dataoutCapacity → (∀ k < s.dataoutIndex, (memLookup s.dataout k).isSome = true) →
    ∃ bytes : List Byte, bytes.length = s.dataoutIndex ∧
      (∀ k (h : k < bytes.length), memLookup s.dataout k = some bytes[k]) ∧
      exec .scanEnd s = .next { s with
        dataoutIndex := 0, sqanHeaderFound := false, matchIdx := 0, overflow := false,
        flushes := s.flushes ++ [{
          emit := decide (0 < s.dataoutIndex ∧ (s.cfg.screenForHeader = false ∨ s.sqanHeaderFound = true)),
          n := s.dataoutIndex, bytes := bytes, syncFound := s.sqanHeaderFound, overflow := s.overflow }] }) ∧
  ∀ (i : Instr) (s t : State), i ≠ .scanEnd → exec i s = .next t → t.flushes = s.flushes

/-- A second `SCAN_END` with no `SAMPLE` between hands over nothing (20_memory.md R69, 95_test_vectors.md V6-8). -/
def Obligations.SecondScanEndIsEmpty : Prop :=
  ∀ s : State, s.Inv → ∃ (t : State) (r : FlushRecord), exec .scanEnd s = .next t ∧ t.flushes = s.flushes ++ [r] ∧
    exec .scanEnd t = .next { t with
      flushes := s.flushes ++ [r, { emit := false, n := 0, bytes := [], syncFound := false, overflow := false }] }

/-- In a state that no run reaches, where `dataoutIndex` counts a cell that is outside the memory or was never written,
`SCAN_END` faults (the model's choice, log entry 5: 20_memory.md R63 says that no rule reads such a cell). -/
def Obligations.ScanEndFaultsOnMissingCell : Prop :=
  ∀ s : State, (∃ k < s.dataoutIndex, s.cfg.dataoutCapacity ≤ k ∨ memLookup s.dataout k = none) →
    ∃ f, exec .scanEnd s = .fault f

/-! ### Invariants and runs -/

/-- The state invariants of 10_state.md hold after reset, under every configuration (70_reset_and_hazards.md R251; that
the reset state lists no `dataout` cell is the model's choice, log entry 5). -/
def Obligations.ResetHasInvariants : Prop :=
  State.reset.Inv ∧ ∀ (c : Config) (xs : List InputStep) (rs : List FlushRecord), (State.resetWith c xs rs).Inv

/-- Every step keeps the state invariants of 10_state.md R23, R25, R26, R27, R28, R30 and the canonical form of the memory,
whatever the input. -/
def Obligations.StepKeepsInvariants : Prop :=
  ∀ s t : State, s.Inv → step s = .next t → t.Inv

/-- Every operation an environment may present is total (60_exceptions.md R220): under a legal configuration it completes
in every state with the invariants, and leaves a state in which every operation is again defined. -/
def Obligations.OperationsAreTotal : Prop :=
  ∀ (i : Instr) (s : State), i.wellFormed = true → configLegal s.cfg = true → s.Inv →
    ∃ t, exec i s = .next t ∧ t.cfg = s.cfg ∧ t.Inv

/-- A run over an input stream the environment may present never faults and is never refused; it uses up the stream and
produces one record for each `SCAN_END` presented without `rst`, which follow those already there (60_exceptions.md
R220, R231, 43_scan_control.md R203). -/
def Obligations.LegalRunCompletes : Prop :=
  ∀ s : State, s.Inv → inputLegal s.cfg s.input = true →
    ∃ (t : State) (rs : List FlushRecord), runSteps s.input.length s = .next t ∧ t.Inv ∧ t.input = [] ∧
      t.flushes = s.flushes ++ rs ∧ rs.length = s.input.countP isScanEnd

/-- `NOP` transparency (43_scan_control.md R200, 95_test_vectors.md V6-7): leaving every `NOP` out of a stream the
environment may present changes neither the end state nor the records. -/
def Obligations.NopsCanBeLeftOut : Prop :=
  ∀ s : State, inputLegal s.cfg s.input = true →
    runSteps s.input.length s =
      runSteps (s.input.filter fun x => !isNop x).length { s with input := s.input.filter fun x => !isNop x }

/-- The cells at or above `dataoutIndex` cannot be observed (20_memory.md R63, 70_reset_and_hazards.md R252): two states
that differ only there run alike over any input, record for record. -/
def Obligations.DeadCellsUnobservable : Prop :=
  ∀ (s u : State) (n : Nat) (t : State), EqualButDeadCells s u → runSteps n s = .next t →
    ∃ v, runSteps n u = .next v ∧ EqualButDeadCells t v ∧ v.flushes = t.flushes ∧ contents v = contents t

/-- The status outputs are a machine of their own (10_state.md R36, 20_memory.md R63): no operation lets the bytes in
`dataout`, the records produced or the input still to come influence any register an observer sees. -/
def Obligations.StatusOutputsIgnoreBuffer : Prop :=
  ∀ (i : Instr) (s u t v : State), s.cfg = u.cfg → statusOutputs s = statusOutputs u → exec i s = .next t →
    exec i u = .next v → statusOutputs t = statusOutputs v

/-- Polarity symmetry, one operation (41_header_detector.md R148): from states on links of opposite polarity, two samples
with complementary raw bits lead to such states again, with the same bytes; so does a `SCAN_END`, with the same
record. -/
def Obligations.MirroredStatesStayMirrored : Prop :=
  ∀ s u : State, configLegal s.cfg = true → MirrorImages s u →
    (∀ iRaw iRaw' qRaw qRaw' : Half, rawBit iRaw' u = !rawBit iRaw s →
      ∃ t v, exec (.sample iRaw qRaw) s = .next t ∧ exec (.sample iRaw' qRaw') u = .next v ∧ MirrorImages t v) ∧
    (∀ t, exec .scanEnd s = .next t → ∃ v, exec .scanEnd u = .next v ∧ MirrorImages t v)

/-- Polarity symmetry, whole runs (41_header_detector.md R148, 95_test_vectors.md L1-2): a stream of line-code bits and
scan ends, and the same stream with every amplitude negated, give the same flush records from states on links of
opposite polarity. -/
def Obligations.InvertedLinkGivesSameRecords : Prop :=
  ∀ (s u : State) (a : Nat) (is : List Instr), configLegal s.cfg = true → s.Inv → MirrorImages s u → 1 ≤ a →
    a ≤ 2047 → s.cfg.percentLast < 100 → signDecides a s → signDecides a u →
    (∀ i ∈ is, i = .nop ∨ i = .scanEnd ∨ ∃ b, i = txBit (BitVec.ofNat 16 a) b) →
    s.input = stimulus s.cfg is → u.input = stimulus s.cfg (is.map negated) →
    ∃ t v, runSteps is.length s = .next t ∧ runSteps is.length u = .next v ∧ v.flushes = t.flushes ∧ MirrorImages t v

/-- Capacity drops are invisible to the data path (42_byte_assembler.md R173): a block with a smaller buffer runs beside
one with a larger buffer that has room, holding the first CAP of the same bytes and the same in every other register. -/
def Obligations.CapacityOnlyTruncates : Prop :=
  ∀ (s u : State) (iRaw qRaw : Half), TruncationOf s u → u.dataoutIndex + 2 ≤ u.cfg.dataoutCapacity →
    ∃ t v, exec (.sample iRaw qRaw) s = .next t ∧ exec (.sample iRaw qRaw) u = .next v ∧ TruncationOf t v

/-- The ignore-headers mode lasts exactly as long as it should (42_byte_assembler.md R168, R169, 70_reset_and_hazards.md
R260): over any samples the block stays LOCKED with window and polarity unchanged until the remaining slots have been
read, and is SEARCHING right after. -/
def Obligations.IgnoreModeLastsItsSlots : Prop :=
  ∀ (s : State) (xs : List (Half × Half)) (rest : List InputStep), s.Inv → configLegal s.cfg = true →
    s.ignoreHeaders = true → xs.length ≤ blindSamples s →
    s.input = stimulus s.cfg (xs.map fun x => .sample x.1 x.2) ++ rest →
    ∃ t, runSteps xs.length s = .next t ∧ t.input = rest ∧ t.window = s.window ∧
      t.isSignalInverted = s.isSignalInverted ∧ (t.isReadingHeader = true ↔ xs.length = blindSamples s)

/-! ### Reception of the line code -/

/-- A header on the line locks the block with the polarity of the link (30_encoding.md R86, R92, 41_header_detector.md R141,
R143): from any SEARCHING state in which no pattern completes early, the W header bits lead to LOCKED and change
nothing else but window and baseline. -/
def Obligations.TransmittedHeaderLocks : Prop :=
  ∀ (s : State) (a : Nat) (inv : Bool) (rest : List InputStep), configLegal s.cfg = true → s.cfg.percentLast < 100 →
    1 ≤ a → a ≤ 2047 → signDecides a s → s.isReadingHeader = true → noEarlyMatch s.cfg inv s.window.toNat →
    s.input = stimulus s.cfg (txHeader s.cfg (linkAmplitude a inv)) ++ rest →
    ∃ t, runSteps s.cfg.headerWidth s = .next t ∧ signDecides a t ∧ t = { s with
      amplitudeLast := t.amplitudeLast, isReadingHeader := false, isSignalInverted := inv, bitIndex := 0, tempByte := 0,
      window := BitVec.ofNat 12 (if inv then 2 ^ s.cfg.headerWidth - 1 - s.cfg.header else s.cfg.header), input := rest }

/-- A byte on the line is recovered (20_memory.md R64, 30_encoding.md R92, 42_byte_assembler.md R161 to R166): in a slot that
has just begun, the 8 bits of a byte, most significant first, on a link of the recorded polarity, append exactly that
byte, escape coded, if there is room. -/
def Obligations.TransmittedByteRecovered : Prop :=
  ∀ (s : State) (a : Nat) (v : Byte) (bytes : List Byte) (rest : List InputStep), s.Inv → configLegal s.cfg = true →
    s.cfg.percentLast < 100 → 1 ≤ a → a ≤ 2047 → signDecides a s → s.isReadingHeader = false →
    s.ignoreHeaders = false → s.bitIndex = 0 → contents s = .ok bytes →
    s.input = stimulus s.cfg (txByte (linkAmplitude a s.isSignalInverted) v) ++ rest →
    ∃ t, runSteps 8 s = .next t ∧ t.input = rest ∧ signDecides a t ∧ t.isSignalInverted = s.isSignalInverted ∧
      t.flushes = s.flushes ∧ contents t = .ok ((bytes ++ escape s.cfg v).take s.cfg.dataoutCapacity)

/-- Loopback of one frame (30_encoding.md R85, 95_test_vectors.md L1-6): from any SEARCHING state in which no pattern
completes early, the frame of a byte on a link of either polarity appends exactly that byte, escape coded, if there
is room. -/
def Obligations.TransmittedFrameRecovered : Prop :=
  ∀ (s : State) (a : Nat) (inv : Bool) (v : Byte) (bytes : List Byte) (rest : List InputStep), s.Inv →
    configLegal s.cfg = true → s.cfg.percentLast < 100 → 1 ≤ a → a ≤ 2047 → signDecides a s →
    s.isReadingHeader = true → noEarlyMatch s.cfg inv s.window.toNat → contents s = .ok bytes →
    s.input = stimulus s.cfg (txFrame s.cfg (linkAmplitude a inv) v) ++ rest →
    ∃ t, runSteps (s.cfg.headerWidth + 8) s = .next t ∧ t.input = rest ∧ t.isSignalInverted = inv ∧
      t.flushes = s.flushes ∧ contents t = .ok ((bytes ++ escape s.cfg v).take s.cfg.dataoutCapacity)
end

