-- ==== Sys2Proof/Laws/State.lean ====
section
/-!
SUPPORT. One lemma per field per register update of Machine/Ops.lean, and per field of the reset state, each true
by rfl: no later proof unfolds a record update.
-/

namespace Sys2Proof.Machine

variable (s : State)

/-! ### setAmplitudeLast -/

@[simp] theorem State.setAmplitudeLast_amplitudeLast (v : Half) : (s.setAmplitudeLast v).amplitudeLast = v := rfl
@[simp] theorem State.setAmplitudeLast_isReadingHeader (v : Half) : (s.setAmplitudeLast v).isReadingHeader = s.isReadingHeader := rfl
@[simp] theorem State.setAmplitudeLast_window (v : Half) : (s.setAmplitudeLast v).window = s.window := rfl
@[simp] theorem State.setAmplitudeLast_isSignalInverted (v : Half) : (s.setAmplitudeLast v).isSignalInverted = s.isSignalInverted := rfl
@[simp] theorem State.setAmplitudeLast_bitIndex (v : Half) : (s.setAmplitudeLast v).bitIndex = s.bitIndex := rfl
@[simp] theorem State.setAmplitudeLast_tempByte (v : Half) : (s.setAmplitudeLast v).tempByte = s.tempByte := rfl
@[simp] theorem State.setAmplitudeLast_ignoreHeaders (v : Half) : (s.setAmplitudeLast v).ignoreHeaders = s.ignoreHeaders := rfl
@[simp] theorem State.setAmplitudeLast_slotsLeft (v : Half) : (s.setAmplitudeLast v).slotsLeft = s.slotsLeft := rfl
@[simp] theorem State.setAmplitudeLast_dataout (v : Half) : (s.setAmplitudeLast v).dataout = s.dataout := rfl
@[simp] theorem State.setAmplitudeLast_dataoutIndex (v : Half) : (s.setAmplitudeLast v).dataoutIndex = s.dataoutIndex := rfl
@[simp] theorem State.setAmplitudeLast_sqanHeaderFound (v : Half) : (s.setAmplitudeLast v).sqanHeaderFound = s.sqanHeaderFound := rfl
@[simp] theorem State.setAmplitudeLast_matchIdx (v : Half) : (s.setAmplitudeLast v).matchIdx = s.matchIdx := rfl
@[simp] theorem State.setAmplitudeLast_overflow (v : Half) : (s.setAmplitudeLast v).overflow = s.overflow := rfl
@[simp] theorem State.setAmplitudeLast_cfg (v : Half) : (s.setAmplitudeLast v).cfg = s.cfg := rfl
@[simp] theorem State.setAmplitudeLast_input (v : Half) : (s.setAmplitudeLast v).input = s.input := rfl
@[simp] theorem State.setAmplitudeLast_flushes (v : Half) : (s.setAmplitudeLast v).flushes = s.flushes := rfl

/-! ### setWindow -/

@[simp] theorem State.setWindow_amplitudeLast (w : BitVec 12) : (s.setWindow w).amplitudeLast = s.amplitudeLast := rfl
@[simp] theorem State.setWindow_isReadingHeader (w : BitVec 12) : (s.setWindow w).isReadingHeader = s.isReadingHeader := rfl
@[simp] theorem State.setWindow_window (w : BitVec 12) : (s.setWindow w).window = w := rfl
@[simp] theorem State.setWindow_isSignalInverted (w : BitVec 12) : (s.setWindow w).isSignalInverted = s.isSignalInverted := rfl
@[simp] theorem State.setWindow_bitIndex (w : BitVec 12) : (s.setWindow w).bitIndex = s.bitIndex := rfl
@[simp] theorem State.setWindow_tempByte (w : BitVec 12) : (s.setWindow w).tempByte = s.tempByte := rfl
@[simp] theorem State.setWindow_ignoreHeaders (w : BitVec 12) : (s.setWindow w).ignoreHeaders = s.ignoreHeaders := rfl
@[simp] theorem State.setWindow_slotsLeft (w : BitVec 12) : (s.setWindow w).slotsLeft = s.slotsLeft := rfl
@[simp] theorem State.setWindow_dataout (w : BitVec 12) : (s.setWindow w).dataout = s.dataout := rfl
@[simp] theorem State.setWindow_dataoutIndex (w : BitVec 12) : (s.setWindow w).dataoutIndex = s.dataoutIndex := rfl
@[simp] theorem State.setWindow_sqanHeaderFound (w : BitVec 12) : (s.setWindow w).sqanHeaderFound = s.sqanHeaderFound := rfl
@[simp] theorem State.setWindow_matchIdx (w : BitVec 12) : (s.setWindow w).matchIdx = s.matchIdx := rfl
@[simp] theorem State.setWindow_overflow (w : BitVec 12) : (s.setWindow w).overflow = s.overflow := rfl
@[simp] theorem State.setWindow_cfg (w : BitVec 12) : (s.setWindow w).cfg = s.cfg := rfl
@[simp] theorem State.setWindow_input (w : BitVec 12) : (s.setWindow w).input = s.input := rfl
@[simp] theorem State.setWindow_flushes (w : BitVec 12) : (s.setWindow w).flushes = s.flushes := rfl

/-! ### lock -/

@[simp] theorem State.lock_amplitudeLast (inv : Bool) : (s.lock inv).amplitudeLast = s.amplitudeLast := rfl
@[simp] theorem State.lock_isReadingHeader (inv : Bool) : (s.lock inv).isReadingHeader = false := rfl
@[simp] theorem State.lock_window (inv : Bool) : (s.lock inv).window = s.window := rfl
@[simp] theorem State.lock_isSignalInverted (inv : Bool) : (s.lock inv).isSignalInverted = inv := rfl
@[simp] theorem State.lock_bitIndex (inv : Bool) : (s.lock inv).bitIndex = 0 := rfl
@[simp] theorem State.lock_tempByte (inv : Bool) : (s.lock inv).tempByte = 0 := rfl
@[simp] theorem State.lock_ignoreHeaders (inv : Bool) : (s.lock inv).ignoreHeaders = s.ignoreHeaders := rfl
@[simp] theorem State.lock_slotsLeft (inv : Bool) : (s.lock inv).slotsLeft = s.slotsLeft := rfl
@[simp] theorem State.lock_dataout (inv : Bool) : (s.lock inv).dataout = s.dataout := rfl
@[simp] theorem State.lock_dataoutIndex (inv : Bool) : (s.lock inv).dataoutIndex = s.dataoutIndex := rfl
@[simp] theorem State.lock_sqanHeaderFound (inv : Bool) : (s.lock inv).sqanHeaderFound = s.sqanHeaderFound := rfl
@[simp] theorem State.lock_matchIdx (inv : Bool) : (s.lock inv).matchIdx = s.matchIdx := rfl
@[simp] theorem State.lock_overflow (inv : Bool) : (s.lock inv).overflow = s.overflow := rfl
@[simp] theorem State.lock_cfg (inv : Bool) : (s.lock inv).cfg = s.cfg := rfl
@[simp] theorem State.lock_input (inv : Bool) : (s.lock inv).input = s.input := rfl
@[simp] theorem State.lock_flushes (inv : Bool) : (s.lock inv).flushes = s.flushes := rfl

/-! ### setSlot -/

@[simp] theorem State.setSlot_amplitudeLast (t : Byte) (k : BitVec 5) : (s.setSlot t k).amplitudeLast = s.amplitudeLast := rfl
@[simp] theorem State.setSlot_isReadingHeader (t : Byte) (k : BitVec 5) : (s.setSlot t k).isReadingHeader = s.isReadingHeader := rfl
@[simp] theorem State.setSlot_window (t : Byte) (k : BitVec 5) : (s.setSlot t k).window = s.window := rfl
@[simp] theorem State.setSlot_isSignalInverted (t : Byte) (k : BitVec 5) : (s.setSlot t k).isSignalInverted = s.isSignalInverted := rfl
@[simp] theorem State.setSlot_bitIndex (t : Byte) (k : BitVec 5) : (s.setSlot t k).bitIndex = k := rfl
@[simp] theorem State.setSlot_tempByte (t : Byte) (k : BitVec 5) : (s.setSlot t k).tempByte = t := rfl
@[simp] theorem State.setSlot_ignoreHeaders (t : Byte) (k : BitVec 5) : (s.setSlot t k).ignoreHeaders = s.ignoreHeaders := rfl
@[simp] theorem State.setSlot_slotsLeft (t : Byte) (k : BitVec 5) : (s.setSlot t k).slotsLeft = s.slotsLeft := rfl
@[simp] theorem State.setSlot_dataout (t : Byte) (k : BitVec 5) : (s.setSlot t k).dataout = s.dataout := rfl
@[simp] theorem State.setSlot_dataoutIndex (t : Byte) (k : BitVec 5) : (s.setSlot t k).dataoutIndex = s.dataoutIndex := rfl
@[simp] theorem State.setSlot_sqanHeaderFound (t : Byte) (k : BitVec 5) : (s.setSlot t k).sqanHeaderFound = s.sqanHeaderFound := rfl
@[simp] theorem State.setSlot_matchIdx (t : Byte) (k : BitVec 5) : (s.setSlot t k).matchIdx = s.matchIdx := rfl
@[simp] theorem State.setSlot_overflow (t : Byte) (k : BitVec 5) : (s.setSlot t k).overflow = s.overflow := rfl
@[simp] theorem State.setSlot_cfg (t : Byte) (k : BitVec 5) : (s.setSlot t k).cfg = s.cfg := rfl
@[simp] theorem State.setSlot_input (t : Byte) (k : BitVec 5) : (s.setSlot t k).input = s.input := rfl
@[simp] theorem State.setSlot_flushes (t : Byte) (k : BitVec 5) : (s.setSlot t k).flushes = s.flushes := rfl

/-! ### storeByte -/

@[simp] theorem State.storeByte_amplitudeLast (o : Byte) : (s.storeByte o).amplitudeLast = s.amplitudeLast := rfl
@[simp] theorem State.storeByte_isReadingHeader (o : Byte) : (s.storeByte o).isReadingHeader = s.isReadingHeader := rfl
@[simp] theorem State.storeByte_window (o : Byte) : (s.storeByte o).window = s.window := rfl
@[simp] theorem State.storeByte_isSignalInverted (o : Byte) : (s.storeByte o).isSignalInverted = s.isSignalInverted := rfl
@[simp] theorem State.storeByte_bitIndex (o : Byte) : (s.storeByte o).bitIndex = s.bitIndex := rfl
@[simp] theorem State.storeByte_tempByte (o : Byte) : (s.storeByte o).tempByte = s.tempByte := rfl
@[simp] theorem State.storeByte_ignoreHeaders (o : Byte) : (s.storeByte o).ignoreHeaders = s.ignoreHeaders := rfl
@[simp] theorem State.storeByte_slotsLeft (o : Byte) : (s.storeByte o).slotsLeft = s.slotsLeft := rfl
@[simp] theorem State.storeByte_dataout (o : Byte) : (s.storeByte o).dataout = memWrite s.dataout s.dataoutIndex o := rfl
@[simp] theorem State.storeByte_dataoutIndex (o : Byte) : (s.storeByte o).dataoutIndex = s.dataoutIndex + 1 := rfl
@[simp] theorem State.storeByte_sqanHeaderFound (o : Byte) : (s.storeByte o).sqanHeaderFound = s.sqanHeaderFound := rfl
@[simp] theorem State.storeByte_matchIdx (o : Byte) : (s.storeByte o).matchIdx = s.matchIdx := rfl
@[simp] theorem State.storeByte_overflow (o : Byte) : (s.storeByte o).overflow = s.overflow := rfl
@[simp] theorem State.storeByte_cfg (o : Byte) : (s.storeByte o).cfg = s.cfg := rfl
@[simp] theorem State.storeByte_input (o : Byte) : (s.storeByte o).input = s.input := rfl
@[simp] theorem State.storeByte_flushes (o : Byte) : (s.storeByte o).flushes = s.flushes := rfl

/-! ### markOverflow -/

@[simp] theorem State.markOverflow_amplitudeLast : s.markOverflow.amplitudeLast = s.amplitudeLast := rfl
@[simp] theorem State.markOverflow_isReadingHeader : s.markOverflow.isReadingHeader = s.isReadingHeader := rfl
@[simp] theorem State.markOverflow_window : s.markOverflow.window = s.window := rfl
@[simp] theorem State.markOverflow_isSignalInverted : s.markOverflow.isSignalInverted = s.isSignalInverted := rfl
@[simp] theorem State.markOverflow_bitIndex : s.markOverflow.bitIndex = s.bitIndex := rfl
@[simp] theorem State.markOverflow_tempByte : s.markOverflow.tempByte = s.tempByte := rfl
@[simp] theorem State.markOverflow_ignoreHeaders : s.markOverflow.ignoreHeaders = s.ignoreHeaders := rfl
@[simp] theorem State.markOverflow_slotsLeft : s.markOverflow.slotsLeft = s.slotsLeft := rfl
@[simp] theorem State.markOverflow_dataout : s.markOverflow.dataout = s.dataout := rfl
@[simp] theorem State.markOverflow_dataoutIndex : s.markOverflow.dataoutIndex = s.dataoutIndex := rfl
@[simp] theorem State.markOverflow_sqanHeaderFound : s.markOverflow.sqanHeaderFound = s.sqanHeaderFound := rfl
@[simp] theorem State.markOverflow_matchIdx : s.markOverflow.matchIdx = s.matchIdx := rfl
@[simp] theorem State.markOverflow_overflow : s.markOverflow.overflow = true := rfl
@[simp] theorem State.markOverflow_cfg : s.markOverflow.cfg = s.cfg := rfl
@[simp] theorem State.markOverflow_input : s.markOverflow.input = s.input := rfl
@[simp] theorem State.markOverflow_flushes : s.markOverflow.flushes = s.flushes := rfl

/-! ### setMatcher -/

@[simp] theorem State.setMatcher_amplitudeLast (found : Bool) (k : Fin 2) : (s.setMatcher found k).amplitudeLast = s.amplitudeLast := rfl
@[simp] theorem State.setMatcher_isReadingHeader (found : Bool) (k : Fin 2) : (s.setMatcher found k).isReadingHeader = s.isReadingHeader := rfl
@[simp] theorem State.setMatcher_window (found : Bool) (k : Fin 2) : (s.setMatcher found k).window = s.window := rfl
@[simp] theorem State.setMatcher_isSignalInverted (found : Bool) (k : Fin 2) : (s.setMatcher found k).isSignalInverted = s.isSignalInverted := rfl
@[simp] theorem State.setMatcher_bitIndex (found : Bool) (k : Fin 2) : (s.setMatcher found k).bitIndex = s.bitIndex := rfl
@[simp] theorem State.setMatcher_tempByte (found : Bool) (k : Fin 2) : (s.setMatcher found k).tempByte = s.tempByte := rfl
@[simp] theorem State.setMatcher_ignoreHeaders (found : Bool) (k : Fin 2) : (s.setMatcher found k).ignoreHeaders = s.ignoreHeaders := rfl
@[simp] theorem State.setMatcher_slotsLeft (found : Bool) (k : Fin 2) : (s.setMatcher found k).slotsLeft = s.slotsLeft := rfl
@[simp] theorem State.setMatcher_dataout (found : Bool) (k : Fin 2) : (s.setMatcher found k).dataout = s.dataout := rfl
@[simp] theorem State.setMatcher_dataoutIndex (found : Bool) (k : Fin 2) : (s.setMatcher found k).dataoutIndex = s.dataoutIndex := rfl
@[simp] theorem State.setMatcher_sqanHeaderFound (found : Bool) (k : Fin 2) : (s.setMatcher found k).sqanHeaderFound = found := rfl
@[simp] theorem State.setMatcher_matchIdx (found : Bool) (k : Fin 2) : (s.setMatcher found k).matchIdx = k := rfl
@[simp] theorem State.setMatcher_overflow (found : Bool) (k : Fin 2) : (s.setMatcher found k).overflow = s.overflow := rfl
@[simp] theorem State.setMatcher_cfg (found : Bool) (k : Fin 2) : (s.setMatcher found k).cfg = s.cfg := rfl
@[simp] theorem State.setMatcher_input (found : Bool) (k : Fin 2) : (s.setMatcher found k).input = s.input := rfl
@[simp] theorem State.setMatcher_flushes (found : Bool) (k : Fin 2) : (s.setMatcher found k).flushes = s.flushes := rfl

/-! ### setSlotsLeft -/

@[simp] theorem State.setSlotsLeft_amplitudeLast (n : BitVec 8) : (s.setSlotsLeft n).amplitudeLast = s.amplitudeLast := rfl
@[simp] theorem State.setSlotsLeft_isReadingHeader (n : BitVec 8) : (s.setSlotsLeft n).isReadingHeader = s.isReadingHeader := rfl
@[simp] theorem State.setSlotsLeft_window (n : BitVec 8) : (s.setSlotsLeft n).window = s.window := rfl
@[simp] theorem State.setSlotsLeft_isSignalInverted (n : BitVec 8) : (s.setSlotsLeft n).isSignalInverted = s.isSignalInverted := rfl
@[simp] theorem State.setSlotsLeft_bitIndex (n : BitVec 8) : (s.setSlotsLeft n).bitIndex = s.bitIndex := rfl
@[simp] theorem State.setSlotsLeft_tempByte (n : BitVec 8) : (s.setSlotsLeft n).tempByte = s.tempByte := rfl
@[simp] theorem State.setSlotsLeft_ignoreHeaders (n : BitVec 8) : (s.setSlotsLeft n).ignoreHeaders = s.ignoreHeaders := rfl
@[simp] theorem State.setSlotsLeft_slotsLeft (n : BitVec 8) : (s.setSlotsLeft n).slotsLeft = n := rfl
@[simp] theorem State.setSlotsLeft_dataout (n : BitVec 8) : (s.setSlotsLeft n).dataout = s.dataout := rfl
@[simp] theorem State.setSlotsLeft_dataoutIndex (n : BitVec 8) : (s.setSlotsLeft n).dataoutIndex = s.dataoutIndex := rfl
@[simp] theorem State.setSlotsLeft_sqanHeaderFound (n : BitVec 8) : (s.setSlotsLeft n).sqanHeaderFound = s.sqanHeaderFound := rfl
@[simp] theorem State.setSlotsLeft_matchIdx (n : BitVec 8) : (s.setSlotsLeft n).matchIdx = s.matchIdx := rfl
@[simp] theorem State.setSlotsLeft_overflow (n : BitVec 8) : (s.setSlotsLeft n).overflow = s.overflow := rfl
@[simp] theorem State.setSlotsLeft_cfg (n : BitVec 8) : (s.setSlotsLeft n).cfg = s.cfg := rfl
@[simp] theorem State.setSlotsLeft_input (n : BitVec 8) : (s.setSlotsLeft n).input = s.input := rfl
@[simp] theorem State.setSlotsLeft_flushes (n : BitVec 8) : (s.setSlotsLeft n).flushes = s.flushes := rfl

/-! ### setIgnoreHeaders -/

@[simp] theorem State.setIgnoreHeaders_amplitudeLast (b : Bool) : (s.setIgnoreHeaders b).amplitudeLast = s.amplitudeLast := rfl
@[simp] theorem State.setIgnoreHeaders_isReadingHeader (b : Bool) : (s.setIgnoreHeaders b).isReadingHeader = s.isReadingHeader := rfl
@[simp] theorem State.setIgnoreHeaders_window (b : Bool) : (s.setIgnoreHeaders b).window = s.window := rfl
@[simp] theorem State.setIgnoreHeaders_isSignalInverted (b : Bool) : (s.setIgnoreHeaders b).isSignalInverted = s.isSignalInverted := rfl
@[simp] theorem State.setIgnoreHeaders_bitIndex (b : Bool) : (s.setIgnoreHeaders b).bitIndex = s.bitIndex := rfl
@[simp] theorem State.setIgnoreHeaders_tempByte (b : Bool) : (s.setIgnoreHeaders b).tempByte = s.tempByte := rfl
@[simp] theorem State.setIgnoreHeaders_ignoreHeaders (b : Bool) : (s.setIgnoreHeaders b).ignoreHeaders = b := rfl
@[simp] theorem State.setIgnoreHeaders_slotsLeft (b : Bool) : (s.setIgnoreHeaders b).slotsLeft = s.slotsLeft := rfl
@[simp] theorem State.setIgnoreHeaders_dataout (b : Bool) : (s.setIgnoreHeaders b).dataout = s.dataout := rfl
@[simp] theorem State.setIgnoreHeaders_dataoutIndex (b : Bool) : (s.setIgnoreHeaders b).dataoutIndex = s.dataoutIndex := rfl
@[simp] theorem State.setIgnoreHeaders_sqanHeaderFound (b : Bool) : (s.setIgnoreHeaders b).sqanHeaderFound = s.sqanHeaderFound := rfl
@[simp] theorem State.setIgnoreHeaders_matchIdx (b : Bool) : (s.setIgnoreHeaders b).matchIdx = s.matchIdx := rfl
@[simp] theorem State.setIgnoreHeaders_overflow (b : Bool) : (s.setIgnoreHeaders b).overflow = s.overflow := rfl
@[simp] theorem State.setIgnoreHeaders_cfg (b : Bool) : (s.setIgnoreHeaders b).cfg = s.cfg := rfl
@[simp] theorem State.setIgnoreHeaders_input (b : Bool) : (s.setIgnoreHeaders b).input = s.input := rfl
@[simp] theorem State.setIgnoreHeaders_flushes (b : Bool) : (s.setIgnoreHeaders b).flushes = s.flushes := rfl

/-! ### resumeSearch -/

@[simp] theorem State.resumeSearch_amplitudeLast : s.resumeSearch.amplitudeLast = s.amplitudeLast := rfl
@[simp] theorem State.resumeSearch_isReadingHeader : s.resumeSearch.isReadingHeader = true := rfl
@[simp] theorem State.resumeSearch_window : s.resumeSearch.window = s.window := rfl
@[simp] theorem State.resumeSearch_isSignalInverted : s.resumeSearch.isSignalInverted = s.isSignalInverted := rfl
@[simp] theorem State.resumeSearch_bitIndex : s.resumeSearch.bitIndex = s.bitIndex := rfl
@[simp] theorem State.resumeSearch_tempByte : s.resumeSearch.tempByte = s.tempByte := rfl
@[simp] theorem State.resumeSearch_ignoreHeaders : s.resumeSearch.ignoreHeaders = s.ignoreHeaders := rfl
@[simp] theorem State.resumeSearch_slotsLeft : s.resumeSearch.slotsLeft = s.slotsLeft := rfl
@[simp] theorem State.resumeSearch_dataout : s.resumeSearch.dataout = s.dataout := rfl
@[simp] theorem State.resumeSearch_dataoutIndex : s.resumeSearch.dataoutIndex = s.dataoutIndex := rfl
@[simp] theorem State.resumeSearch_sqanHeaderFound : s.resumeSearch.sqanHeaderFound = s.sqanHeaderFound := rfl
@[simp] theorem State.resumeSearch_matchIdx : s.resumeSearch.matchIdx = s.matchIdx := rfl
@[simp] theorem State.resumeSearch_overflow : s.resumeSearch.overflow = s.overflow := rfl
@[simp] theorem State.resumeSearch_cfg : s.resumeSearch.cfg = s.cfg := rfl
@[simp] theorem State.resumeSearch_input : s.resumeSearch.input = s.input := rfl
@[simp] theorem State.resumeSearch_flushes : s.resumeSearch.flushes = s.flushes := rfl

/-! ### emitRecord -/

@[simp] theorem State.emitRecord_amplitudeLast (r : FlushRecord) : (s.emitRecord r).amplitudeLast = s.amplitudeLast := rfl
@[simp] theorem State.emitRecord_isReadingHeader (r : FlushRecord) : (s.emitRecord r).isReadingHeader = s.isReadingHeader := rfl
@[simp] theorem State.emitRecord_window (r : FlushRecord) : (s.emitRecord r).window = s.window := rfl
@[simp] theorem State.emitRecord_isSignalInverted (r : FlushRecord) : (s.emitRecord r).isSignalInverted = s.isSignalInverted := rfl
@[simp] theorem State.emitRecord_bitIndex (r : FlushRecord) : (s.emitRecord r).bitIndex = s.bitIndex := rfl
@[simp] theorem State.emitRecord_tempByte (r : FlushRecord) : (s.emitRecord r).tempByte = s.tempByte := rfl
@[simp] theorem State.emitRecord_ignoreHeaders (r : FlushRecord) : (s.emitRecord r).ignoreHeaders = s.ignoreHeaders := rfl
@[simp] theorem State.emitRecord_slotsLeft (r : FlushRecord) : (s.emitRecord r).slotsLeft = s.slotsLeft := rfl
@[simp] theorem State.emitRecord_dataout (r : FlushRecord) : (s.emitRecord r).dataout = s.dataout := rfl
@[simp] theorem State.emitRecord_dataoutIndex (r : FlushRecord) : (s.emitRecord r).dataoutIndex = s.dataoutIndex := rfl
@[simp] theorem State.emitRecord_sqanHeaderFound (r : FlushRecord) : (s.emitRecord r).sqanHeaderFound = s.sqanHeaderFound := rfl
@[simp] theorem State.emitRecord_matchIdx (r : FlushRecord) : (s.emitRecord r).matchIdx = s.matchIdx := rfl
@[simp] theorem State.emitRecord_overflow (r : FlushRecord) : (s.emitRecord r).overflow = s.overflow := rfl
@[simp] theorem State.emitRecord_cfg (r : FlushRecord) : (s.emitRecord r).cfg = s.cfg := rfl
@[simp] theorem State.emitRecord_input (r : FlushRecord) : (s.emitRecord r).input = s.input := rfl
@[simp] theorem State.emitRecord_flushes (r : FlushRecord) : (s.emitRecord r).flushes = s.flushes ++ [r] := rfl

/-! ### clearScan -/

@[simp] theorem State.clearScan_amplitudeLast : s.clearScan.amplitudeLast = s.amplitudeLast := rfl
@[simp] theorem State.clearScan_isReadingHeader : s.clearScan.isReadingHeader = s.isReadingHeader := rfl
@[simp] theorem State.clearScan_window : s.clearScan.window = s.window := rfl
@[simp] theorem State.clearScan_isSignalInverted : s.clearScan.isSignalInverted = s.isSignalInverted := rfl
@[simp] theorem State.clearScan_bitIndex : s.clearScan.bitIndex = s.bitIndex := rfl
@[simp] theorem State.clearScan_tempByte : s.clearScan.tempByte = s.tempByte := rfl
@[simp] theorem State.clearScan_ignoreHeaders : s.clearScan.ignoreHeaders = s.ignoreHeaders := rfl
@[simp] theorem State.clearScan_slotsLeft : s.clearScan.slotsLeft = s.slotsLeft := rfl
@[simp] theorem State.clearScan_dataout : s.clearScan.dataout = s.dataout := rfl
@[simp] theorem State.clearScan_dataoutIndex : s.clearScan.dataoutIndex = 0 := rfl
@[simp] theorem State.clearScan_sqanHeaderFound : s.clearScan.sqanHeaderFound = false := rfl
@[simp] theorem State.clearScan_matchIdx : s.clearScan.matchIdx = 0 := rfl
@[simp] theorem State.clearScan_overflow : s.clearScan.overflow = false := rfl
@[simp] theorem State.clearScan_cfg : s.clearScan.cfg = s.cfg := rfl
@[simp] theorem State.clearScan_input : s.clearScan.input = s.input := rfl
@[simp] theorem State.clearScan_flushes : s.clearScan.flushes = s.flushes := rfl

/-! ### setInput -/

@[simp] theorem State.setInput_amplitudeLast (xs : List InputStep) : (s.setInput xs).amplitudeLast = s.amplitudeLast := rfl
@[simp] theorem State.setInput_isReadingHeader (xs : List InputStep) : (s.setInput xs).isReadingHeader = s.isReadingHeader := rfl
@[simp] theorem State.setInput_window (xs : List InputStep) : (s.setInput xs).window = s.window := rfl
@[simp] theorem State.setInput_isSignalInverted (xs : List InputStep) : (s.setInput xs).isSignalInverted = s.isSignalInverted := rfl
@[simp] theorem State.setInput_bitIndex (xs : List InputStep) : (s.setInput xs).bitIndex = s.bitIndex := rfl
@[simp] theorem State.setInput_tempByte (xs : List InputStep) : (s.setInput xs).tempByte = s.tempByte := rfl
@[simp] theorem State.setInput_ignoreHeaders (xs : List InputStep) : (s.setInput xs).ignoreHeaders = s.ignoreHeaders := rfl
@[simp] theorem State.setInput_slotsLeft (xs : List InputStep) : (s.setInput xs).slotsLeft = s.slotsLeft := rfl
@[simp] theorem State.setInput_dataout (xs : List InputStep) : (s.setInput xs).dataout = s.dataout := rfl
@[simp] theorem State.setInput_dataoutIndex (xs : List InputStep) : (s.setInput xs).dataoutIndex = s.dataoutIndex := rfl
@[simp] theorem State.setInput_sqanHeaderFound (xs : List InputStep) : (s.setInput xs).sqanHeaderFound = s.sqanHeaderFound := rfl
@[simp] theorem State.setInput_matchIdx (xs : List InputStep) : (s.setInput xs).matchIdx = s.matchIdx := rfl
@[simp] theorem State.setInput_overflow (xs : List InputStep) : (s.setInput xs).overflow = s.overflow := rfl
@[simp] theorem State.setInput_cfg (xs : List InputStep) : (s.setInput xs).cfg = s.cfg := rfl
@[simp] theorem State.setInput_input (xs : List InputStep) : (s.setInput xs).input = xs := rfl
@[simp] theorem State.setInput_flushes (xs : List InputStep) : (s.setInput xs).flushes = s.flushes := rfl

/-! ### The reset state (70_reset_and_hazards.md R251) -/

variable (c : Config) (xs : List InputStep) (rs : List FlushRecord)

@[simp] theorem State.resetWith_amplitudeLast : (State.resetWith c xs rs).amplitudeLast = 0 := rfl
@[simp] theorem State.resetWith_isReadingHeader : (State.resetWith c xs rs).isReadingHeader = true := rfl
@[simp] theorem State.resetWith_window : (State.resetWith c xs rs).window = 0 := rfl
@[simp] theorem State.resetWith_isSignalInverted : (State.resetWith c xs rs).isSignalInverted = false := rfl
@[simp] theorem State.resetWith_bitIndex : (State.resetWith c xs rs).bitIndex = 0 := rfl
@[simp] theorem State.resetWith_tempByte : (State.resetWith c xs rs).tempByte = 0 := rfl
@[simp] theorem State.resetWith_ignoreHeaders : (State.resetWith c xs rs).ignoreHeaders = false := rfl
@[simp] theorem State.resetWith_slotsLeft : (State.resetWith c xs rs).slotsLeft = 0 := rfl
@[simp] theorem State.resetWith_dataout : (State.resetWith c xs rs).dataout = [] := rfl
@[simp] theorem State.resetWith_dataoutIndex : (State.resetWith c xs rs).dataoutIndex = 0 := rfl
@[simp] theorem State.resetWith_sqanHeaderFound : (State.resetWith c xs rs).sqanHeaderFound = false := rfl
@[simp] theorem State.resetWith_matchIdx : (State.resetWith c xs rs).matchIdx = 0 := rfl
@[simp] theorem State.resetWith_overflow : (State.resetWith c xs rs).overflow = false := rfl
@[simp] theorem State.resetWith_cfg : (State.resetWith c xs rs).cfg = c := rfl
@[simp] theorem State.resetWith_input : (State.resetWith c xs rs).input = xs := rfl
@[simp] theorem State.resetWith_flushes : (State.resetWith c xs rs).flushes = rs := rfl

end Sys2Proof.Machine
end

