-- ==== Sys2Proof/Laws/Memory.lean ====
section
/-!
SUPPORT. What the memory operations do: a write is read back, every other cell keeps its value, the canonical form
is kept, and a flush reads exactly the listed bytes (20_memory.md R62, R63).
-/

namespace Sys2Proof.Machine

@[simp] theorem memLookup_nil (k : Nat) : memLookup [] k = none := rfl

@[simp] theorem memLookup_memWrite_self (m : Memory) (k : Nat) (v : Byte) : memLookup (memWrite m k v) k = some v := by
  induction m with
  | nil => simp [memWrite, memLookup]
  | cons c m ih =>
    obtain ⟨a, w⟩ := c
    unfold memWrite
    split
    · simp [memLookup]
    · split
      · simp [memLookup]
      · next h => simp [memLookup, Ne.symm h, ih]

theorem memLookup_memWrite_of_ne (m : Memory) {k j : Nat} (v : Byte) (h : j ≠ k) :
    memLookup (memWrite m k v) j = memLookup m j := by
  induction m with
  | nil => simp [memWrite, memLookup, Ne.symm h]
  | cons c m ih =>
    obtain ⟨a, w⟩ := c
    unfold memWrite
    split
    · simp [memLookup, Ne.symm h]
    · split
      · next ha => simp [memLookup, Ne.symm h, ← ha]
      · simp [memLookup, ih]

/-- A write adds at most the cell it writes. -/
theorem mem_memWrite {m : Memory} {k : Nat} {v : Byte} {c : Host.Cell} (h : c ∈ memWrite m k v) : c = (k, v) ∨ c ∈ m := by
  induction m with
  | nil => simpa [memWrite] using h
  | cons d m ih =>
    obtain ⟨a, w⟩ := d
    unfold memWrite at h
    split at h
    · simpa using h
    · split at h
      · rcases List.mem_cons.mp h with h | h
        · exact .inl h
        · exact .inr (List.mem_cons_of_mem _ h)
      · rcases List.mem_cons.mp h with h | h
        · exact .inr (h ▸ List.mem_cons_self)
        · exact (ih h).imp_right (List.mem_cons_of_mem _)

@[simp] theorem Memory.wf_nil : Memory.wf [] = true := rfl

theorem Memory.wf_iff (m : Memory) : Memory.wf m = true ↔ m.Pairwise fun a b => a.1 < b.1 := by simp [Memory.wf]

/-- Every memory operation keeps the canonical form: there is one that changes the memory, the write. -/
theorem Memory.wf_memWrite {m : Memory} (h : Memory.wf m = true) (k : Nat) (v : Byte) :
    Memory.wf (memWrite m k v) = true := by
  rw [Memory.wf_iff] at *
  induction m with
  | nil => simp [memWrite]
  | cons d m ih =>
    obtain ⟨a, w⟩ := d
    obtain ⟨hd, hm⟩ := List.pairwise_cons.mp h
    unfold memWrite
    split
    · next hk =>
      refine List.pairwise_cons.mpr ⟨fun b hb => ?_, h⟩
      rcases List.mem_cons.mp hb with rfl | hb
      · exact hk
      · exact hk.trans (hd b hb)
    · split
      · next ha => exact List.pairwise_cons.mpr ⟨fun b hb => ha ▸ hd b hb, hm⟩
      · next hlt hne =>
        refine List.pairwise_cons.mpr ⟨fun b hb => ?_, ih hm⟩
        rcases mem_memWrite hb with rfl | hb
        · exact lt_of_le_of_ne (Nat.le_of_not_lt hlt) (Ne.symm hne)
        · exact hd b hb

/-- A read of a listed cell inside the address space. -/
theorem memRead_of_lookup {c : Config} {m : Memory} {k : Nat} {v : Byte} (hk : k < c.dataoutCapacity)
    (hv : memLookup m k = some v) : memRead c m k = .ok v := by simp [memRead, hk, hv]

/-- Everything a flush read can answer when it answers: the bytes listed at 0 to n-1, in order. -/
theorem readCells_ok_iff (c : Config) (m : Memory) (n : Nat) (bs : List Byte) :
    readCells c m n = .ok bs ↔ bs.length = n ∧
      ∀ k (h : k < bs.length), k < c.dataoutCapacity ∧ memLookup m k = some bs[k] := by
  induction n generalizing bs with
  | zero =>
    simp only [readCells, Except.ok.injEq]
    constructor
    · rintro rfl; simp
    · rintro ⟨h, -⟩; exact (List.eq_nil_of_length_eq_zero h).symm
  | succ n ih =>
    simp only [readCells]
    constructor
    · intro h
      split at h
      · cases h
      · next xs hxs =>
        split at h
        · cases h
        · next b hb =>
          cases h
          obtain ⟨hl, hx⟩ := (ih xs).mp hxs
          refine ⟨by simp [hl], fun k hk => ?_⟩
          rw [List.length_append, List.length_singleton] at hk
          rcases Nat.lt_succ_iff_lt_or_eq.mp hk with hk | rfl
          · simpa [List.getElem_append_left hk] using hx k hk
          · simp only [memRead] at hb
            split at hb
            · next hc =>
              split at hb
              · next v hv => cases hb; subst hl; exact ⟨hc, by simpa using hv⟩
              · cases hb
            · cases hb
    · rintro ⟨hl, hx⟩
      obtain ⟨xs, b, rfl⟩ := List.eq_nil_or_concat bs |>.resolve_left (by rintro rfl; simp at hl)
      simp only [List.concat_eq_append, List.length_append, List.length_singleton, Nat.add_right_cancel_iff] at hl hx
      have hxs : readCells c m n = .ok xs := (ih xs).mpr ⟨hl, fun k hk => by
        simpa [List.getElem_append_left hk] using hx k (by omega)⟩
      obtain ⟨hc, hb⟩ := hx xs.length (by omega)
      rw [hxs]
      subst hl
      simp [memRead_of_lookup hc (by simpa using hb)]

/-- A flush of written cells inside the address space answers. -/
theorem readCells_total {c : Config} {m : Memory} {n : Nat} (hn : n ≤ c.dataoutCapacity)
    (hw : ∀ k < n, (memLookup m k).isSome = true) : ∃ bs, readCells c m n = .ok bs := by
  induction n with
  | zero => exact ⟨[], rfl⟩
  | succ n ih =>
    obtain ⟨xs, hxs⟩ := ih (by omega) fun k hk => hw k (by omega)
    obtain ⟨v, hv⟩ := Option.isSome_iff_exists.mp (hw n (by omega))
    exact ⟨xs ++ [v], by simp [readCells, hxs, memRead_of_lookup (show n < c.dataoutCapacity by omega) hv]⟩

/-- A flush depends only on the capacity and on the cells it reads. -/
theorem readCells_congr {c d : Config} {m p : Memory} {n : Nat} (hc : c.dataoutCapacity = d.dataoutCapacity)
    (h : ∀ k < n, memLookup p k = memLookup m k) : readCells d p n = readCells c m n := by
  induction n with
  | zero => rfl
  | succ n ih =>
    simp only [readCells, ih fun k hk => h k (by omega), memRead, h n (by omega), hc]

end Sys2Proof.Machine
end

