-- ==== Sys2Proof/Laws/Ops.lean ====
section
/-!
SUPPORT. What the shared operations can do: the bounded append and the appends of an output list
(42_byte_assembler.md R166), and the configuration check (30_encoding.md R93).
-/

namespace Sys2Proof.Machine

/-- Everything an append can do (R166). -/
theorem append_cases (s : State) (o : Byte) :
    (s.dataoutIndex < s.cfg.dataoutCapacity ∧ append s o = s.storeByte o) ∨
      (s.cfg.dataoutCapacity ≤ s.dataoutIndex ∧ append s o = s.markOverflow) := by
  unfold append
  split
  · exact .inl ⟨‹_›, rfl⟩
  · exact .inr ⟨by omega, rfl⟩

/-- An append changes the memory, its fill count and `overflow`, and nothing else. -/
theorem append_frame (s : State) (o : Byte) : append s o =
    { s with
      dataout := (append s o).dataout, dataoutIndex := (append s o).dataoutIndex, overflow := (append s o).overflow } := by
  rcases append_cases s o with ⟨-, h⟩ | ⟨-, h⟩ <;> rw [h] <;> rfl

@[simp] theorem appendAll_nil (s : State) : appendAll s [] = s := rfl

@[simp] theorem appendAll_cons (s : State) (o : Byte) (out : List Byte) :
    appendAll s (o :: out) = appendAll (append s o) out := rfl

/-- Appends change the memory, its fill count and `overflow`, and nothing else. -/
theorem appendAll_frame (s : State) (out : List Byte) : appendAll s out =
    { s with
      dataout := (appendAll s out).dataout, dataoutIndex := (appendAll s out).dataoutIndex,
      overflow := (appendAll s out).overflow } := by
  induction out generalizing s with
  | nil => rfl
  | cons o out ih => rw [appendAll_cons, ih (append s o), append_frame s o]

section
variable (s : State) (out : List Byte)
@[simp] theorem appendAll_amplitudeLast : (appendAll s out).amplitudeLast = s.amplitudeLast := by rw [appendAll_frame]
@[simp] theorem appendAll_isReadingHeader : (appendAll s out).isReadingHeader = s.isReadingHeader := by rw [appendAll_frame]
@[simp] theorem appendAll_window : (appendAll s out).window = s.window := by rw [appendAll_frame]
@[simp] theorem appendAll_isSignalInverted : (appendAll s out).isSignalInverted = s.isSignalInverted := by
  rw [appendAll_frame]
@[simp] theorem appendAll_bitIndex : (appendAll s out).bitIndex = s.bitIndex := by rw [appendAll_frame]
@[simp] theorem appendAll_tempByte : (appendAll s out).tempByte = s.tempByte := by rw [appendAll_frame]
@[simp] theorem appendAll_ignoreHeaders : (appendAll s out).ignoreHeaders = s.ignoreHeaders := by rw [appendAll_frame]
@[simp] theorem appendAll_slotsLeft : (appendAll s out).slotsLeft = s.slotsLeft := by rw [appendAll_frame]
@[simp] theorem appendAll_sqanHeaderFound : (appendAll s out).sqanHeaderFound = s.sqanHeaderFound := by rw [appendAll_frame]
@[simp] theorem appendAll_matchIdx : (appendAll s out).matchIdx = s.matchIdx := by rw [appendAll_frame]
@[simp] theorem appendAll_cfg : (appendAll s out).cfg = s.cfg := by rw [appendAll_frame]
@[simp] theorem appendAll_input : (appendAll s out).input = s.input := by rw [appendAll_frame]
@[simp] theorem appendAll_flushes : (appendAll s out).flushes = s.flushes := by rw [appendAll_frame]
end

/-- The fill count after appends: it stops at CAP (R166, 10_state.md R30). -/
theorem appendAll_dataoutIndex {s : State} (h : s.dataoutIndex ≤ s.cfg.dataoutCapacity) (out : List Byte) :
    (appendAll s out).dataoutIndex = min s.cfg.dataoutCapacity (s.dataoutIndex + out.length) := by
  induction out generalizing s with
  | nil => simp [h]
  | cons o out ih =>
    rcases append_cases s o with ⟨hlt, ha⟩ | ⟨hge, ha⟩ <;> rw [appendAll_cons, ha]
    · rw [ih (by simpa using hlt)]; simp; omega
    · rw [ih (by simpa using h)]; simp; omega

/-- `overflow` after appends: set exactly when a byte found no room (R166). -/
theorem appendAll_overflow {s : State} (h : s.dataoutIndex ≤ s.cfg.dataoutCapacity) (out : List Byte) :
    (appendAll s out).overflow = (s.overflow || decide (s.cfg.dataoutCapacity < s.dataoutIndex + out.length)) := by
  induction out generalizing s with
  | nil => simp; omega
  | cons o out ih =>
    rcases append_cases s o with ⟨hlt, ha⟩ | ⟨hge, ha⟩ <;> rw [appendAll_cons, ha]
    · rw [ih (by simpa using hlt)]; simp [Nat.add_assoc, Nat.add_comm]
    · rw [ih (by simpa using h)]; simp; right; omega

/-- The memory after appends: the bytes that found room, in order from `dataoutIndex`, and every other cell as
before (R166). -/
theorem appendAll_memLookup (s : State) (out : List Byte) (k : Nat) :
    memLookup (appendAll s out).dataout k =
      if s.dataoutIndex ≤ k ∧ k < s.cfg.dataoutCapacity ∧ k < s.dataoutIndex + out.length then
        out[k - s.dataoutIndex]?
      else memLookup s.dataout k := by
  induction out generalizing s with
  | nil => rw [if_neg (by simp; omega)]; rfl
  | cons o out ih =>
    rcases append_cases s o with ⟨hlt, ha⟩ | ⟨hge, ha⟩ <;> rw [appendAll_cons, ha, ih]
    · rw [State.storeByte_dataoutIndex, State.storeByte_cfg, State.storeByte_dataout, List.length_cons]
      by_cases hk : k = s.dataoutIndex
      · rw [if_neg (by omega), if_pos (by omega)]; simp [hk]
      · rw [memLookup_memWrite_of_ne _ _ hk]
        by_cases hc : s.dataoutIndex ≤ k ∧ k < s.cfg.dataoutCapacity ∧ k < s.dataoutIndex + (out.length + 1)
        · rw [if_pos (by omega), if_pos hc]
          obtain ⟨j, rfl⟩ : ∃ j, k = s.dataoutIndex + 1 + j := ⟨k - (s.dataoutIndex + 1), by omega⟩
          simp [show s.dataoutIndex + 1 + j - s.dataoutIndex = j + 1 by omega]
        · rw [if_neg (by omega), if_neg hc]
    · rw [State.markOverflow_dataoutIndex, State.markOverflow_cfg, State.markOverflow_dataout, if_neg (by omega),
        if_neg (by omega)]

theorem appendAll_memory_wf {s : State} (h : Memory.wf s.dataout = true) (out : List Byte) :
    Memory.wf (appendAll s out).dataout = true := by
  induction out generalizing s with
  | nil => exact h
  | cons o out ih =>
    rcases append_cases s o with ⟨-, ha⟩ | ⟨-, ha⟩ <;> rw [appendAll_cons, ha]
    · exact ih (Memory.wf_memWrite h _ _)
    · exact ih h

theorem appendAll_cells_inside {s : State} (h : ∀ c ∈ s.dataout, c.1 < s.cfg.dataoutCapacity) (out : List Byte) :
    ∀ c ∈ (appendAll s out).dataout, c.1 < s.cfg.dataoutCapacity := by
  induction out generalizing s with
  | nil => exact h
  | cons o out ih =>
    rcases append_cases s o with ⟨hlt, ha⟩ | ⟨-, ha⟩ <;> rw [appendAll_cons, ha]
    · refine ih fun c hc => ?_
      rcases mem_memWrite hc with rfl | hc
      · exact hlt
      · exact h c hc
    · exact ih h

/-- `escape` gives one byte or two (42_byte_assembler.md R164). -/
theorem escape_cases (c : Config) (b : Byte) :
    (c.escapeEnable && needsEscape c b) = true ∧ escape c b = [c.escMarker, b ^^^ c.escXor] ∨
      (c.escapeEnable && needsEscape c b) = false ∧ escape c b = [b] := by
  unfold escape
  split
  · exact .inl ⟨‹_›, rfl⟩
  · exact .inr ⟨Bool.eq_false_iff.mpr ‹_›, rfl⟩

/-- What a legal configuration gives (30_encoding.md R93). -/
theorem configLegal_spec {c : Config} (h : configLegal c = true) :
    c.headerWidth ∈ [8, 9, 11, 12] ∧ c.header ≤ maskNat c ∧ c.percentLast ≤ 100 ∧ c.ampMode = .iOnly ∧
      c.noiseFloor = 0 ∧ 8 ≤ c.ignoreSlotBits ∧ c.ignoreSlotBits ≤ 31 ∧ c.timingInterval ≤ 255 ∧
      1 ≤ c.dataoutCapacity ∧ escapeLegal c = true := by
  simp only [configLegal, widthLegal, headerLegal, percentLegal, amplitudeLegal, timingLegal, capacityLegal,
    Bool.and_eq_true, decide_eq_true_eq, List.contains_iff_mem] at h
  tauto

theorem configLegal_width_le {c : Config} (h : configLegal c = true) : c.headerWidth ≤ 12 := by
  have := (configLegal_spec h).1
  simp at this
  omega

end Sys2Proof.Machine
end

