-- ==== Sys2Proof/Laws/PerInstr.lean ====
section
/-!
SUPPORT. Families of facts about the operations as syntax, one lemma per constructor.
-/

namespace Sys2Proof.Laws

/-- `OperandFields`: the canonical word of an operation carries the operation code of its row of spec/opcode_table.json
in bits [33:32], and an operand field that the operation ignores is zero (30_encoding.md R80, R81). -/
def OperandFields.Statement : Instr → Prop
  | .nop => encode .nop = 0x000000000
  | .sample iRaw qRaw =>
    (encode (.sample iRaw qRaw)).toNat = 2 ^ 32 + iRaw.toNat * 2 ^ 16 + qRaw.toNat
  | .scanEnd => encode .scanEnd = 0x200000000
  | .reserved3 => encode .reserved3 = 0x300000000

theorem OperandFields.nop : OperandFields.Statement .nop := by simp only [Statement]; decide
theorem OperandFields.scanEnd : OperandFields.Statement .scanEnd := by simp only [Statement]; decide
theorem OperandFields.reserved3 : OperandFields.Statement .reserved3 := by simp only [Statement]; decide
theorem OperandFields.sample (iRaw qRaw : Half) : OperandFields.Statement (.sample iRaw qRaw) := by
  have hi := iRaw.isLt
  have hq := qRaw.isLt
  have h1 : (1#2 ++ iRaw).toNat = 2 ^ 16 + iRaw.toNat := by
    rw [BitVec.toNat_append, ← Nat.shiftLeft_add_eq_or_of_lt hi]; simp [Nat.shiftLeft_eq]
  simp only [Statement, encode, inputWord]
  rw [BitVec.toNat_append, ← Nat.shiftLeft_add_eq_or_of_lt hq]
  erw [h1]
  simp only [Nat.shiftLeft_eq]
  omega

end Sys2Proof.Laws
end

