-- ==== Sys2Proof/Laws/Sample.lean ====
section
/-!
SUPPORT. Everything a sample can do: one inversion lemma per stage step (41_header_detector.md R141,
42_byte_assembler.md R161, R163, R168), and what every sample leaves alone.
-/

namespace Sys2Proof.Machine

/-! ### The stage steps -/

/-- Everything a search step can do (R141, R143, R144). -/
theorem searchStep_cases (bit : Bool) (s : State) :
    (shiftWindow s.cfg s.window bit = headerWord s.cfg ∧
      searchStep bit s = (s.setWindow (shiftWindow s.cfg s.window bit)).lock false) ∨
    (shiftWindow s.cfg s.window bit ≠ headerWord s.cfg ∧ shiftWindow s.cfg s.window bit = inverseHeader s.cfg ∧
      searchStep bit s = (s.setWindow (shiftWindow s.cfg s.window bit)).lock true) ∨
    (shiftWindow s.cfg s.window bit ≠ headerWord s.cfg ∧ shiftWindow s.cfg s.window bit ≠ inverseHeader s.cfg ∧
      searchStep bit s = s.setWindow (shiftWindow s.cfg s.window bit)) := by
  by_cases h : shiftWindow s.cfg s.window bit = headerWord s.cfg
  · exact .inl ⟨h, if_pos h⟩
  · by_cases k : shiftWindow s.cfg s.window bit = inverseHeader s.cfg
    · exact .inr (.inl ⟨h, k, (if_neg h).trans (if_pos k)⟩)
    · exact .inr (.inr ⟨h, k, (if_neg h).trans (if_neg k)⟩)

/-- Everything the end of a byte can do to the state machine (R168). -/
theorem nextState_cases (s : State) :
    (s.ignoreHeaders = true ∧ s.slotsLeft - 1 = 0 ∧ nextState s = { s with
      bitIndex := 0, tempByte := 0, slotsLeft := 0, ignoreHeaders := false, isReadingHeader := true }) ∨
    (s.ignoreHeaders = true ∧ s.slotsLeft - 1 ≠ 0 ∧ nextState s = { s with
      bitIndex := 0, tempByte := 0, slotsLeft := s.slotsLeft - 1 }) ∨
    (s.ignoreHeaders = false ∧ s.cfg.byteTiming = true ∧ s.sqanHeaderFound = true ∧ 0 < s.cfg.timingInterval ∧
      nextState s = { s with
        bitIndex := 0, tempByte := 0, ignoreHeaders := true, slotsLeft := BitVec.ofNat 8 s.cfg.timingInterval }) ∨
    (s.ignoreHeaders = false ∧ ¬(s.cfg.byteTiming = true ∧ s.sqanHeaderFound = true ∧ 0 < s.cfg.timingInterval) ∧
      nextState s = { s with bitIndex := 0, tempByte := 0, isReadingHeader := true }) := by
  by_cases hi : s.ignoreHeaders = true
  · by_cases h : s.slotsLeft - 1 = 0
    · exact .inl ⟨hi, h, (if_pos hi).trans ((if_pos h).trans (by rw [State.setSlot_slotsLeft, h]; rfl))⟩
    · exact .inr (.inl ⟨hi, h, (if_pos hi).trans (if_neg h)⟩)
  · have hf := Bool.eq_false_iff.mpr hi
    by_cases h : (s.cfg.byteTiming && s.sqanHeaderFound && decide (0 < s.cfg.timingInterval)) = true
    · have h' := h
      simp only [Bool.and_eq_true, decide_eq_true_eq, and_assoc] at h'
      exact .inr (.inr (.inl ⟨hf, h'.1, h'.2.1, h'.2.2, (if_neg hi).trans (if_pos h)⟩))
    · have h' := h
      simp only [Bool.and_eq_true, decide_eq_true_eq, and_assoc] at h'
      exact .inr (.inr (.inr ⟨hf, h', (if_neg hi).trans (if_neg h)⟩))

/-- Everything an assemble step can do (R161). -/
theorem assembleStep_cases (bit : Bool) (s : State) :
    ((s.bitIndex + 1).toNat = bitsNeeded s ∧
      assembleStep bit s = completeByte (s.setSlot (shiftByte s.tempByte bit) (s.bitIndex + 1))) ∨
    ((s.bitIndex + 1).toNat ≠ bitsNeeded s ∧
      assembleStep bit s = s.setSlot (shiftByte s.tempByte bit) (s.bitIndex + 1)) := by
  by_cases h : (s.bitIndex + 1).toNat = bitsNeeded s
  · exact .inl ⟨h, if_pos h⟩
  · exact .inr ⟨h, if_neg h⟩

/-- Everything a sample can do: one stage step, chosen by the state before it (40_bit_synchronizer.md R110). -/
theorem sampleNext_cases (iRaw qRaw : Half) (s : State) :
    (s.isReadingHeader = true ∧ sampleNext iRaw qRaw s =
      searchStep (sampleBit iRaw qRaw s) (s.setAmplitudeLast (baseline s.cfg (sampleAmplitude iRaw qRaw)))) ∨
    (s.isReadingHeader = false ∧ sampleNext iRaw qRaw s =
      assembleStep (sampleBit iRaw qRaw s) (s.setAmplitudeLast (baseline s.cfg (sampleAmplitude iRaw qRaw)))) := by
  unfold sampleNext
  split
  · exact .inl ⟨‹_›, rfl⟩
  · exact .inr ⟨Bool.eq_false_iff.mpr ‹_›, rfl⟩

/-! ### Frames of the stage steps -/

section
variable (s : State)

@[simp] theorem nextState_amplitudeLast : (nextState s).amplitudeLast = s.amplitudeLast := by
  rcases nextState_cases s with ⟨-, -, h⟩ | ⟨-, -, h⟩ | ⟨-, -, -, -, h⟩ | ⟨-, -, h⟩ <;> rw [h]
@[simp] theorem nextState_window : (nextState s).window = s.window := by
  rcases nextState_cases s with ⟨-, -, h⟩ | ⟨-, -, h⟩ | ⟨-, -, -, -, h⟩ | ⟨-, -, h⟩ <;> rw [h]
@[simp] theorem nextState_isSignalInverted : (nextState s).isSignalInverted = s.isSignalInverted := by
  rcases nextState_cases s with ⟨-, -, h⟩ | ⟨-, -, h⟩ | ⟨-, -, -, -, h⟩ | ⟨-, -, h⟩ <;> rw [h]
@[simp] theorem nextState_bitIndex : (nextState s).bitIndex = 0 := by
  rcases nextState_cases s with ⟨-, -, h⟩ | ⟨-, -, h⟩ | ⟨-, -, -, -, h⟩ | ⟨-, -, h⟩ <;> rw [h]
@[simp] theorem nextState_tempByte : (nextState s).tempByte = 0 := by
  rcases nextState_cases s with ⟨-, -, h⟩ | ⟨-, -, h⟩ | ⟨-, -, -, -, h⟩ | ⟨-, -, h⟩ <;> rw [h]
@[simp] theorem nextState_dataout : (nextState s).dataout = s.dataout := by
  rcases nextState_cases s with ⟨-, -, h⟩ | ⟨-, -, h⟩ | ⟨-, -, -, -, h⟩ | ⟨-, -, h⟩ <;> rw [h]
@[simp] theorem nextState_dataoutIndex : (nextState s).dataoutIndex = s.dataoutIndex := by
  rcases nextState_cases s with ⟨-, -, h⟩ | ⟨-, -, h⟩ | ⟨-, -, -, -, h⟩ | ⟨-, -, h⟩ <;> rw [h]
@[simp] theorem nextState_sqanHeaderFound : (nextState s).sqanHeaderFound = s.sqanHeaderFound := by
  rcases nextState_cases s with ⟨-, -, h⟩ | ⟨-, -, h⟩ | ⟨-, -, -, -, h⟩ | ⟨-, -, h⟩ <;> rw [h]
@[simp] theorem nextState_matchIdx : (nextState s).matchIdx = s.matchIdx := by
  rcases nextState_cases s with ⟨-, -, h⟩ | ⟨-, -, h⟩ | ⟨-, -, -, -, h⟩ | ⟨-, -, h⟩ <;> rw [h]
@[simp] theorem nextState_overflow : (nextState s).overflow = s.overflow := by
  rcases nextState_cases s with ⟨-, -, h⟩ | ⟨-, -, h⟩ | ⟨-, -, -, -, h⟩ | ⟨-, -, h⟩ <;> rw [h]
@[simp] theorem nextState_cfg : (nextState s).cfg = s.cfg := by
  rcases nextState_cases s with ⟨-, -, h⟩ | ⟨-, -, h⟩ | ⟨-, -, -, -, h⟩ | ⟨-, -, h⟩ <;> rw [h]
@[simp] theorem nextState_input : (nextState s).input = s.input := by
  rcases nextState_cases s with ⟨-, -, h⟩ | ⟨-, -, h⟩ | ⟨-, -, -, -, h⟩ | ⟨-, -, h⟩ <;> rw [h]
@[simp] theorem nextState_flushes : (nextState s).flushes = s.flushes := by
  rcases nextState_cases s with ⟨-, -, h⟩ | ⟨-, -, h⟩ | ⟨-, -, -, -, h⟩ | ⟨-, -, h⟩ <;> rw [h]
end

/-- The matcher does not see the appends (R171). -/
@[simp] theorem foundAfter_appendAll (s : State) (out : List Byte) (b : Byte) :
    foundAfter (appendAll s out) b = foundAfter s b := by rw [appendAll_frame]; rfl
@[simp] theorem matchIdxAfter_appendAll (s : State) (out : List Byte) (b : Byte) :
    matchIdxAfter (appendAll s out) b = matchIdxAfter s b := by rw [appendAll_frame]; rfl

/-- The state that the next-state decision of a byte completion sees: the bytes appended, the matcher fed
(R163 steps 1 to 3). -/
theorem completeByte_eq (s : State) : completeByte s =
    nextState ((appendAll s (escape s.cfg s.tempByte)).setMatcher (foundAfter s s.tempByte) (matchIdxAfter s s.tempByte)) := by
  rw [completeByte, matchSync, foundAfter_appendAll, matchIdxAfter_appendAll]

/-- What a byte completion writes but for the state machine (R163 to R167). -/
theorem completeByte_fields (s : State) :
    (completeByte s).bitIndex = 0 ∧ (completeByte s).tempByte = 0 ∧
    (completeByte s).dataout = (appendAll s (escape s.cfg s.tempByte)).dataout ∧
    (completeByte s).dataoutIndex = (appendAll s (escape s.cfg s.tempByte)).dataoutIndex ∧
    (completeByte s).overflow = (appendAll s (escape s.cfg s.tempByte)).overflow ∧
    (completeByte s).sqanHeaderFound = foundAfter s s.tempByte ∧ (completeByte s).matchIdx = matchIdxAfter s s.tempByte := by
  simp [completeByte_eq]

/-- What a byte completion leaves alone. -/
theorem completeByte_frame (s : State) :
    (completeByte s).amplitudeLast = s.amplitudeLast ∧ (completeByte s).window = s.window ∧
    (completeByte s).isSignalInverted = s.isSignalInverted ∧ (completeByte s).cfg = s.cfg ∧
    (completeByte s).input = s.input ∧ (completeByte s).flushes = s.flushes := by
  simp [completeByte_eq]

/-! ### Frames of a sample -/

/-- A sample writes the baseline of its own amplitude (40_bit_synchronizer.md R115). -/
@[simp] theorem sampleNext_amplitudeLast (iRaw qRaw : Half) (s : State) :
    (sampleNext iRaw qRaw s).amplitudeLast = baseline s.cfg (sampleAmplitude iRaw qRaw) := by
  rcases sampleNext_cases iRaw qRaw s with ⟨-, h⟩ | ⟨-, h⟩ <;> rw [h]
  · rcases searchStep_cases (sampleBit iRaw qRaw s) (s.setAmplitudeLast (baseline s.cfg (sampleAmplitude iRaw qRaw)))
      with ⟨-, h⟩ | ⟨-, -, h⟩ | ⟨-, -, h⟩ <;> rw [h] <;> rfl
  · rcases assembleStep_cases (sampleBit iRaw qRaw s) (s.setAmplitudeLast (baseline s.cfg (sampleAmplitude iRaw qRaw)))
      with ⟨-, h⟩ | ⟨-, h⟩ <;> rw [h]
    · exact (completeByte_frame _).1
    · rfl

/-- No sample touches the configuration, the input still to come or the records. -/
theorem sampleNext_frame (iRaw qRaw : Half) (s : State) :
    (sampleNext iRaw qRaw s).cfg = s.cfg ∧ (sampleNext iRaw qRaw s).input = s.input ∧
      (sampleNext iRaw qRaw s).flushes = s.flushes := by
  rcases sampleNext_cases iRaw qRaw s with ⟨-, h⟩ | ⟨-, h⟩ <;> rw [h]
  · rcases searchStep_cases (sampleBit iRaw qRaw s) (s.setAmplitudeLast (baseline s.cfg (sampleAmplitude iRaw qRaw)))
      with ⟨-, h⟩ | ⟨-, -, h⟩ | ⟨-, -, h⟩ <;> rw [h] <;> exact ⟨rfl, rfl, rfl⟩
  · rcases assembleStep_cases (sampleBit iRaw qRaw s) (s.setAmplitudeLast (baseline s.cfg (sampleAmplitude iRaw qRaw)))
      with ⟨-, h⟩ | ⟨-, h⟩ <;> rw [h]
    · exact (completeByte_frame _).2.2.2
    · exact ⟨rfl, rfl, rfl⟩

@[simp] theorem sampleNext_cfg (iRaw qRaw : Half) (s : State) : (sampleNext iRaw qRaw s).cfg = s.cfg :=
  (sampleNext_frame iRaw qRaw s).1
@[simp] theorem sampleNext_input (iRaw qRaw : Half) (s : State) : (sampleNext iRaw qRaw s).input = s.input :=
  (sampleNext_frame iRaw qRaw s).2.1
@[simp] theorem sampleNext_flushes (iRaw qRaw : Half) (s : State) : (sampleNext iRaw qRaw s).flushes = s.flushes :=
  (sampleNext_frame iRaw qRaw s).2.2

end Sys2Proof.Machine
end

