-- ==== Sys2Proof/Laws/Step.lean ====
section
/-!
SUPPORT. Everything a step can do when it answers a next state, and what each operation answers.
-/

namespace Sys2Proof.Machine

@[simp] theorem exec_nop (s : State) : exec .nop s = .next s := rfl
@[simp] theorem exec_sample (iRaw qRaw : Half) (s : State) : exec (.sample iRaw qRaw) s = .next (sampleNext iRaw qRaw s) := rfl
@[simp] theorem exec_reserved3 (s : State) : exec .reserved3 s = .refused .reservedOperation := rfl

/-- `SCAN_END` answers exactly when the flush can be read, and then does what 43_scan_control.md R201 says. -/
theorem exec_scanEnd_of_ok {s : State} {bytes : List Byte} (h : readCells s.cfg s.dataout s.dataoutIndex = .ok bytes) :
    exec .scanEnd s = .next ((s.emitRecord (flushRecord s bytes)).clearScan) := by
  simp [exec, execScanEnd, h]

/-- Everything `SCAN_END` can do. -/
theorem exec_scanEnd_cases (s : State) :
    (∃ bytes, readCells s.cfg s.dataout s.dataoutIndex = .ok bytes ∧
      exec .scanEnd s = .next ((s.emitRecord (flushRecord s bytes)).clearScan)) ∨
    (∃ f, readCells s.cfg s.dataout s.dataoutIndex = .error f ∧ exec .scanEnd s = .fault f) := by
  cases h : readCells s.cfg s.dataout s.dataoutIndex with
  | ok bytes => exact .inl ⟨bytes, rfl, exec_scanEnd_of_ok h⟩
  | error f => exact .inr ⟨f, rfl, by simp [exec, execScanEnd, h]⟩

/-- Everything an operation can do when it answers a next state. -/
theorem exec_next_cases {i : Instr} {s t : State} (h : exec i s = .next t) :
    (i = .nop ∧ t = s) ∨ (∃ iRaw qRaw, i = .sample iRaw qRaw ∧ t = sampleNext iRaw qRaw s) ∨
    (i = .scanEnd ∧ ∃ bytes, readCells s.cfg s.dataout s.dataoutIndex = .ok bytes ∧
      t = (s.emitRecord (flushRecord s bytes)).clearScan) := by
  cases i with
  | nop => cases h; exact .inl ⟨rfl, rfl⟩
  | sample iRaw qRaw => cases h; exact .inr (.inl ⟨iRaw, qRaw, rfl, rfl⟩)
  | scanEnd =>
    rcases exec_scanEnd_cases s with ⟨bytes, hb, hx⟩ | ⟨f, -, hx⟩ <;> rw [hx] at h
    · cases h; exact .inr (.inr ⟨rfl, bytes, hb, rfl⟩)
    · cases h
  | reserved3 => cases h

/-- A step whose item asserts `rst` (70_reset_and_hazards.md R250). -/
theorem step_of_rst {s : State} {x : InputStep} {rest : List InputStep} (hi : s.input = x :: rest) (hr : x.rst = true) :
    step s = .next (resetStep s x.cfg rest) := by simp [step, fetch, hi, hr]

/-- A step whose item presents a word under the legal configuration in force. -/
theorem step_of_word {s : State} {x : InputStep} {rest : List InputStep} (hi : s.input = x :: rest)
    (hr : x.rst = false) (hc : x.cfg = s.cfg) (hl : configLegal s.cfg = true) :
    step s = exec (decode x.word) (s.setInput rest) := by simp [step, fetch, hi, hr, hc, hl]

/-- Everything a step can do when it answers a next state. -/
theorem step_next_cases {s t : State} (h : step s = .next t) :
    ∃ x rest, s.input = x :: rest ∧
      ((x.rst = true ∧ t = resetStep s x.cfg rest) ∨
       (x.rst = false ∧ x.cfg = s.cfg ∧ configLegal s.cfg = true ∧ exec (decode x.word) (s.setInput rest) = .next t)) := by
  cases hi : s.input with
  | nil => simp [step, fetch, hi] at h
  | cons x rest =>
    refine ⟨x, rest, rfl, ?_⟩
    by_cases hr : x.rst = true
    · rw [step_of_rst hi hr] at h; cases h; exact .inl ⟨hr, rfl⟩
    · by_cases hc : x.cfg = s.cfg
      · by_cases hl : configLegal s.cfg = true
        · rw [step_of_word hi (Bool.eq_false_iff.mpr hr) hc hl] at h
          exact .inr ⟨Bool.eq_false_iff.mpr hr, hc, hl, h⟩
        · simp [step, fetch, hi, hr, hc, hl] at h
      · simp [step, fetch, hi, hr, hc] at h

end Sys2Proof.Machine
end

