-- ==== Sys2Proof/Laws/Run.lean ====
section
/-!
SUPPORT. Runs of several steps, one step at a time, and that no operation looks at the input still to come.
-/

namespace Sys2Proof.Machine

@[simp] theorem runSteps_zero (s : State) : runSteps 0 s = .next s := rfl

theorem runSteps_succ_of_next {s t : State} (n : Nat) (h : step s = .next t) : runSteps (n + 1) s = runSteps n t := by
  have h' : core.step s = .next t := h
  simp only [runSteps, Host.Core.run, h']; rfl

theorem runSteps_succ_of_fault {s : State} {f : Fault} (n : Nat) (h : step s = .fault f) :
    runSteps (n + 1) s = .fault f := by
  have h' : core.step s = .fault f := h
  simp only [runSteps, Host.Core.run, h']; rfl

theorem runSteps_succ_of_refused {s : State} {r : Refusal} (n : Nat) (h : step s = .refused r) :
    runSteps (n + 1) s = .refused r := by
  have h' : core.step s = .refused r := h
  simp only [runSteps, Host.Core.run, h']; rfl

/-- A run that answers goes through a first step that answers. -/
theorem runSteps_succ_cases {s t : State} {n : Nat} (h : runSteps (n + 1) s = .next t) :
    ∃ u, step s = .next u ∧ runSteps n u = .next t := by
  cases hs : step s with
  | next u => exact ⟨u, rfl, by rw [← runSteps_succ_of_next n hs]; exact h⟩
  | fault f => rw [runSteps_succ_of_fault n hs] at h; cases h
  | refused r => rw [runSteps_succ_of_refused n hs] at h; cases h

/-- A run is its first part followed by its second. -/
theorem runSteps_add {s t : State} (n m : Nat) (h : runSteps n s = .next t) : runSteps (n + m) s = runSteps m t := by
  induction n generalizing s with
  | zero => cases h; rw [Nat.zero_add]
  | succ n ih =>
    obtain ⟨u, hu, h⟩ := runSteps_succ_cases h
    rw [show n + 1 + m = n + m + 1 by omega, runSteps_succ_of_next _ hu, ih h]

/-! ### The input still to come -/

theorem append_setInput (s : State) (xs : List InputStep) (o : Byte) :
    append (s.setInput xs) o = (append s o).setInput xs := by
  rcases append_cases s o with ⟨h, e⟩ | ⟨h, e⟩ <;> rcases append_cases (s.setInput xs) o with ⟨k, f⟩ | ⟨k, f⟩ <;>
    rw [e, f]
  · rfl
  · exact absurd h (Nat.not_lt.mpr k)
  · exact absurd k (Nat.not_lt.mpr h)
  · rfl

theorem appendAll_setInput (s : State) (xs : List InputStep) (out : List Byte) :
    appendAll (s.setInput xs) out = (appendAll s out).setInput xs := by
  induction out generalizing s with
  | nil => rfl
  | cons o out ih => rw [appendAll_cons, append_setInput, ih]; rfl

theorem nextState_setInput (s : State) (xs : List InputStep) : nextState (s.setInput xs) = (nextState s).setInput xs := by
  rcases nextState_cases s with ⟨a, b, e⟩ | ⟨a, b, e⟩ | ⟨a, b, c, d, e⟩ | ⟨a, b, e⟩ <;>
    rcases nextState_cases (s.setInput xs) with ⟨a', b', f⟩ | ⟨a', b', f⟩ | ⟨a', b', c', d', f⟩ | ⟨a', b', f⟩ <;>
    rw [e, f] <;> first | rfl | simp_all

theorem completeByte_setInput (s : State) (xs : List InputStep) :
    completeByte (s.setInput xs) = (completeByte s).setInput xs := by
  rw [completeByte, completeByte, ← nextState_setInput]
  simp only [State.setInput_cfg, State.setInput_tempByte, appendAll_setInput]
  rfl

theorem assembleStep_setInput (bit : Bool) (s : State) (xs : List InputStep) :
    assembleStep bit (s.setInput xs) = (assembleStep bit s).setInput xs := by
  rcases assembleStep_cases bit s with ⟨h, e⟩ | ⟨h, e⟩ <;>
    rcases assembleStep_cases bit (s.setInput xs) with ⟨k, f⟩ | ⟨k, f⟩
  · rw [e, f, ← completeByte_setInput]; rfl
  · exact absurd h k
  · exact absurd k h
  · rw [e, f]; rfl

theorem searchStep_setInput (bit : Bool) (s : State) (xs : List InputStep) :
    searchStep bit (s.setInput xs) = (searchStep bit s).setInput xs := by
  rcases searchStep_cases bit s with ⟨h, e⟩ | ⟨h, h', e⟩ | ⟨h, h', e⟩ <;>
    rcases searchStep_cases bit (s.setInput xs) with ⟨k, f⟩ | ⟨k, k', f⟩ | ⟨k, k', f⟩ <;>
    rw [e, f] <;> first | rfl | exact absurd h k | exact absurd k h | exact absurd h' k' | exact absurd k' h'

theorem sampleNext_setInput (iRaw qRaw : Half) (s : State) (xs : List InputStep) :
    sampleNext iRaw qRaw (s.setInput xs) = (sampleNext iRaw qRaw s).setInput xs := by
  rcases sampleNext_cases iRaw qRaw s with ⟨h, e⟩ | ⟨h, e⟩ <;>
    rcases sampleNext_cases iRaw qRaw (s.setInput xs) with ⟨k, f⟩ | ⟨k, f⟩
  · rw [e, f, ← searchStep_setInput]; rfl
  · rw [State.setInput_isReadingHeader, h] at k; cases k
  · rw [State.setInput_isReadingHeader, h] at k; cases k
  · rw [e, f, ← assembleStep_setInput]; rfl

end Sys2Proof.Machine
end

