-- ==== Sys2Proof/Tests/Slice0.lean ====
section
/-!
SUPPORT. Tests of the model. Expected values are from 95_test_vectors.md and the examples of the rules; each test
names its source. The last part gives, for each statement of Certificates/Slice0/Obligations.lean that has
hypotheses, concrete values that meet all of them.
-/

namespace Sys2Proof.Tests

open Sys2Proof.Machine

/-- The reset state under a configuration, nothing to come. -/
def fresh (c : Config) : State := State.resetWith c [] []

/-- LOCKED on a link of polarity `inv`, `k` bits of the slot read so far, in the accumulator `t`. -/
def locked (c : Config) (inv : Bool) (k : BitVec 5) (t : Byte) : State :=
  { fresh c with isReadingHeader := false, isSignalInverted := inv, bitIndex := k, tempByte := t }

/-- LOCKED in ignore-headers mode with `n` slots left, the marker found. -/
def ignoring (c : Config) (n : BitVec 8) (k : BitVec 5) (t : Byte) : State :=
  { locked c false k t with ignoreHeaders := true, slotsLeft := n, sqanHeaderFound := true }

/-- The cells 0 to n-1 written with these bytes. -/
def holding (s : State) (bytes : List Byte) : State :=
  { s with dataout := bytes.zipIdx.map fun p => (p.2, p.1), dataoutIndex := bytes.length }

/-- A word presented under a configuration. -/
def item (c : Config) (w : InputWord) : InputStep := { rst := false, cfg := c, word := w }

/-- The next state an operation or a step answers. -/
def after (o : Host.Outcome State Fault Refusal) : Option State :=
  match o with
  | .next t => some t
  | _ => none

/-- The refusal an operation or a step answers. -/
def refusedBy (o : Host.Outcome State Fault Refusal) : Option Refusal :=
  match o with
  | .refused r => some r
  | _ => none

/-- The state with input items to come. -/
def coming (s : State) (xs : List InputStep) : State := { s with input := xs }

/-! ### Decoding: words written out from 30_encoding.md R80 -/

/-- V0: `cmd` 0b00, both operand fields zero. -/
theorem test_decode_nop :
    decode 0b00_0000000000000000_0000000000000000#34 = .nop := by decide
/-- V0: `cmd` 0b00, every operand bit set: the operand fields are ignored. -/
theorem test_decode_nop_noncanonical :
    decode 0b00_1111111111111111_1111111111111111#34 = .nop := by decide
/-- V0: `cmd` 0b01, `i_raw` 1000 (0x03E8), `q_raw` -3 (0xFFFD). -/
theorem test_decode_sample :
    decode 0b01_0000001111101000_1111111111111101#34 = .sample 1000 (-3) := by decide
/-- V1-2: `cmd` 0b01, `i_raw` -1000 (0xFC18), `q_raw` 0. -/
theorem test_decode_sample_negative :
    decode 0b01_1111110000011000_0000000000000000#34 = .sample (-1000) 0 := by decide
/-- V0: `cmd` 0b10, operand fields zero. -/
theorem test_decode_scanEnd :
    decode 0b10_0000000000000000_0000000000000000#34 = .scanEnd := by decide
/-- V0: `cmd` 0b10, operand fields 0x1234 and 0x5678, ignored. -/
theorem test_decode_scanEnd_noncanonical :
    decode 0b10_0001001000110100_0101011001111000#34 = .scanEnd := by decide
/-- R82: `cmd` 0b11. -/
theorem test_decode_reserved :
    decode 0b11_0000000000000000_0000000000000000#34 = .reserved3 := by decide
/-- V1-1: the canonical word of `SAMPLE 1000, 0` is 0x103E80000. -/
theorem test_encode_sample : encode (.sample 1000 0) = 0x103E80000 := by decide
/-- The canonical word of `SCAN_END` is 0x200000000. -/
theorem test_encode_scanEnd : encode .scanEnd = 0x200000000 := by decide
/-- R80: the word has 34 bits. -/
theorem test_decode_refuses_wider : decodeBits (2 ^ 34) = .error .widerThanInputWord := by decide
theorem test_decodeTableWord : decodeTableWord 40 0x1FC180000 = some (.sample (-1000) 0) := by decide
theorem test_decodeTableWord_wider : decodeTableWord 40 0x400000000 = none := by decide

/-! ### WellFormed: what no environment may present -/

/-- R82: the reserved code. -/
theorem test_wellFormed_reserved : Instr.wellFormed .reserved3 = false := by decide
theorem test_wellFormed_nop : Instr.wellFormed .nop = true := by decide
theorem test_wellFormed_scanEnd : Instr.wellFormed .scanEnd = true := by decide
/-- R267: an out-of-range sample wraps, it is not refused. -/
theorem test_wellFormed_sample : Instr.wellFormed (.sample 0x1800 0) = true := by decide

/-! ### The configuration check (30_encoding.md R93, V8): one ill-formed record for each check -/

theorem test_config_ex1 : configLegal Config.ex1 = true := by decide
theorem test_config_ex2 : configLegal Config.ex2 = true := by decide
theorem test_config_ex3 : configLegal Config.ex3 = true := by decide
theorem test_config_width : widthLegal { Config.ex1 with headerWidth := 10 } = false := by decide
theorem test_config_header : headerLegal { Config.ex2 with header := 0x1A7 } = false := by decide
theorem test_config_percent : percentLegal { Config.ex1 with percentLast := 101 } = false := by decide
theorem test_config_ampMode : amplitudeLegal { Config.ex1 with ampMode := .largerMagnitude } = false := by decide
theorem test_config_noiseFloor : amplitudeLegal { Config.ex1 with noiseFloor := 1 } = false := by decide
theorem test_config_slot_short : timingLegal { Config.ex1 with ignoreSlotBits := 7 } = false := by decide
theorem test_config_slot_long : timingLegal { Config.ex1 with ignoreSlotBits := 32 } = false := by decide
theorem test_config_interval : timingLegal { Config.ex1 with timingInterval := 256 } = false := by decide
theorem test_config_capacity : capacityLegal { Config.ex1 with dataoutCapacity := 0 } = false := by decide
/-- R12 (a): the marker is not in the reserved set. -/
theorem test_config_escape_marker :
    escapeLegal { Config.ex3 with escMarker := 0x41, escExtra := [] } = false := by decide
/-- R12 (b): a transformed value is in the reserved set. -/
theorem test_config_escape_xor : escapeLegal { Config.ex3 with escXor := 1 } = false := by decide
/-- R93: with escape coding off its values are not checked. -/
theorem test_config_escape_off :
    configLegal { Config.ex1 with escMarker := 0x41, escExtra := [], escXor := 1 } = true := by decide
/-- Each failed check makes the whole record illegal. -/
theorem test_config_refused :
    [{ Config.ex1 with headerWidth := 10 }, { Config.ex2 with header := 0x1A7 },
      { Config.ex1 with percentLast := 101 }, { Config.ex1 with ampMode := .iPlusQ },
      { Config.ex1 with noiseFloor := 1 }, { Config.ex1 with ignoreSlotBits := 7 },
      { Config.ex1 with dataoutCapacity := 0 }, { Config.ex3 with escXor := 1 }].map configLegal =
    [false, false, false, false, false, false, false, false] := by decide

/-! ### One step of each operation -/

/-- R200: a `NOP` is not a zero sample. -/
theorem test_nop : after (exec .nop (locked Config.ex1 false 3 0x05)) = some (locked Config.ex1 false 3 0x05) := by decide

/-- R110, example: `SAMPLE 1000, 0` from reset. -/
theorem test_sample_from_reset : after (exec (.sample 1000 0) (fresh Config.ex1)) =
    some { fresh Config.ex1 with amplitudeLast := 800, window := 0x001 } := by decide

/-- V5-10 and R168: CAP 5, index 4, the byte 0xFF completes: the escape marker is stored, its partner dropped; the
last slot of the mode ends it. -/
theorem test_sample_completes_byte :
    after (exec (.sample 1000 0) (holding (ignoring Config.ex3 1 19 0x7F) [0x53, 0x51, 0x41, 0x42])) =
      some { holding (ignoring Config.ex3 0 0 0) [0x53, 0x51, 0x41, 0x42, 0x7F] with
        amplitudeLast := 800, isReadingHeader := true, ignoreHeaders := false, overflow := true } := by decide

/-- R201, example, in the middle of a slot, which goes on (R205). -/
theorem test_scanEnd :
    after (exec .scanEnd
      { holding (locked Config.ex3 true 3 0x05) [0x53, 0x51] with sqanHeaderFound := true, matchIdx := 1 }) =
    some { holding (locked Config.ex3 true 3 0x05) [0x53, 0x51] with
      dataoutIndex := 0, flushes := [⟨true, 2, [0x53, 0x51], true, false⟩] } := by decide

/-- V6-1: an empty scan. -/
theorem test_scanEnd_empty : after (exec .scanEnd (fresh Config.ex1)) =
    some { fresh Config.ex1 with flushes := [⟨false, 0, [], false, false⟩] } := by decide

/-- R82, R206. -/
theorem test_reserved : refusedBy (exec .reserved3 (fresh Config.ex1)) = some .reservedOperation := by decide

/-! ### The shared operations -/

/-- V1-8, V1-6: the baseline is rounded toward zero. -/
theorem test_baseline : [(-6 : Half), -1, 2047, -2048].map (fun i => (baseline Config.ex1 (sampleAmplitude i 0)).toInt) =
    [-4, 0, 1637, -1638] := by decide
/-- V1-17, V1-18: an out-of-range component wraps. -/
theorem test_amplitude_wraps : [(0x1800 : Half), 0x0FFF].map (fun i => (sampleAmplitude i 0).toInt) = [-32768, -16] := by
  decide
/-- V4-1, last bit: the sample that completes the header locks. -/
theorem test_search_match : searchStep true { fresh Config.ex1 with window := 0x79A } =
    { locked Config.ex1 false 0 0 with window := 0xF35 } := by decide
/-- V4-3, last bit: the inverse pattern. -/
theorem test_search_match_inverse : searchStep false { fresh Config.ex1 with window := 0x065 } =
    { locked Config.ex1 true 0 0 with window := 0x0CA } := by decide
/-- V4-10: the bit shifted out of the masked window is lost. -/
theorem test_search_mask : shiftWindow { Config.ex1 with headerWidth := 9, header := 0x1A7 } 0x1D3 true = 0x1A7 := by
  decide
/-- V5-4. -/
theorem test_escape : [(0x0A : Byte), 0xFF, 0x7F, 0x1F, 0x20, 0x41].map (escape Config.ex3) =
    [[0x7F, 0x4A], [0x7F, 0xBF], [0x7F, 0x3F], [0x7F, 0x5F], [0x20], [0x41]] := by decide
/-- V5-5: the naive matcher. -/
theorem test_matcher : [[(0x53 : Byte), 0x53, 0x51], [0x53, 0x53, 0x53, 0x51], [0x53, 0x51, 0x53]].map
      (fun bs => bs.foldl (fun s b => matchSync b s) (fresh Config.ex1)) =
    [fresh Config.ex1, { fresh Config.ex1 with sqanHeaderFound := true },
      { fresh Config.ex1 with sqanHeaderFound := true, matchIdx := 1 }] := by decide

/-! ### Steps -/

/-- R250, R251 (V7): a step with `rst` ignores its word, puts its configuration in force and keeps the records. -/
theorem test_step_reset :
    after (step { ignoring Config.ex3 2 5 0x15 with
      input := [{ rst := true, cfg := Config.ex2, word := 0x200000000 }], flushes := [⟨false, 0, [], false, false⟩] }) =
    some { fresh Config.ex2 with flushes := [⟨false, 0, [], false, false⟩] } := by decide

/-- The host's question: the table's word, placed, is what the next step runs. -/
theorem test_step_withFetchWord : after (step (State.reset.withFetchWord 40 0x103E80000)) =
    some { State.reset with amplitudeLast := 800, window := 0x001 } := by decide

/-- R231: the end of the stream is the end of the run. -/
theorem test_step_end : refusedBy (step State.reset) = some .endOfInput := by decide

/-! ### Witnesses: concrete values that meet the hypotheses of the statements

Where a statement has several clauses there is a value for each, at a boundary of its range. -/

/-- In ignore-headers mode, in the middle of a slot, the buffer full. -/
def busy : State := holding (ignoring Config.ex3 2 19 0x15) [0x53, 0x51, 0x41, 0x42, 0x43]

theorem busy_inv : busy.Inv := by constructor <;> decide

/-- SEARCHING with bytes in the buffer. -/
def searching : State := { holding (fresh Config.ex1) [0x41, 0x42] with window := 0xF35 }

theorem searching_inv : searching.Inv := by constructor <;> decide

/-- LOCKED on an inverted link, before the last bit of a slot. -/
def lastBit : State := holding (locked Config.ex1 true 7 0x29) [0x41]

theorem lastBit_inv : lastBit.Inv := by constructor <;> decide

/-- LOCKED on an inverted link, at the first bit of a slot, the baseline at the edge of the test amplitude. -/
def firstBit : State := { holding (locked Config.ex1 true 0 0) [0x41] with amplitudeLast := 16000 }

theorem firstBit_inv : firstBit.Inv := by constructor <;> decide

theorem witness_NopChangesNothing : (0x0FFFFFFFF : InputWord).toNat / 2 ^ 32 = 0 := by decide

theorem witness_ReservedCodeRefused : (0x3FFFFFFFF : InputWord).toNat / 2 ^ 32 = 3 ∧
    (coming searching [item Config.ex1 0x300000000]).input = item Config.ex1 0x300000000 :: [] ∧
    (item Config.ex1 0x300000000).rst = false ∧ (item Config.ex1 0x300000000).word.toNat / 2 ^ 32 = 3 := by decide

theorem witness_StepRunsDecodedWord :
    (coming busy [item Config.ex3 0x103E80000]).input = item Config.ex3 0x103E80000 :: [] ∧
    (item Config.ex3 0x103E80000).rst = false ∧ (item Config.ex3 0x103E80000).cfg = busy.cfg ∧
    configLegal busy.cfg = true ∧ decode (item Config.ex3 0x103E80000).word = .sample 1000 0 := by decide

theorem witness_ResetStepGivesResetState :
    (coming busy [⟨true, Config.ex2, 0x200000000⟩]).input = ⟨true, Config.ex2, 0x200000000⟩ :: [] ∧
    (⟨true, Config.ex2, 0x200000000⟩ : InputStep).rst = true := by decide

/-- `PERCENT_LAST` just outside its range. -/
def badConfig : Config := { Config.ex1 with percentLast := 101 }

theorem witness_IllegalConfigurationRefused :
    (coming (fresh badConfig) [item badConfig 0]).input = item badConfig 0 :: [] ∧ (item badConfig 0).rst = false ∧
    (item badConfig 0).cfg = (fresh badConfig).cfg ∧ configLegal (fresh badConfig).cfg = false := by decide

theorem witness_ConfigurationChangesOnlyAtReset :
    ((coming searching [item Config.ex2 0]).input = item Config.ex2 0 :: [] ∧ (item Config.ex2 0).rst = false ∧
      (item Config.ex2 0).cfg ≠ searching.cfg) ∧
    (after (step (coming searching [item Config.ex1 0x103E80000]))).isSome = true ∧
    (after (step (coming searching [⟨true, Config.ex2, 0⟩]))).isSome = true := by decide

theorem witness_OnlyLowTwelveBitsCount :
    (-2048 ≤ (-2048 : Half).toInt ∧ (-2048 : Half).toInt ≤ 2047) ∧
    (-2048 ≤ (2047 : Half).toInt ∧ (2047 : Half).toInt ≤ 2047) ∧
    (0x1800 : Half).toNat % 4096 = (0xF800 : Half).toNat % 4096 := by decide

theorem witness_SampleLeavesBaselineOfItsAmplitude :
    (fresh { Config.ex1 with percentLast := 100 }).cfg.percentLast ≤ 100 ∧ after (exec .nop busy) = some busy ∧
    (after (exec .scanEnd busy)).isSome = true := by decide

/-- Amplitudes 0, -32767 (the most negative one with a counterpart) and 32752, percentages 100 and 0. -/
theorem witness_BaselineArithmetic :
    { Config.ex1 with percentLast := 100 }.percentLast ≤ 100 ∧ { Config.ex1 with percentLast := 0 }.percentLast ≤ 100 ∧
    0 ≤ (0 : Half).toInt ∧ (0 : Half).toInt ≤ 0 ∧ (-32767 : Half).toInt ≠ -32768 ∧ 0 ≤ (32752 : Half).toInt := by decide

/-- A zero sample; a negative one at 99 and at 100 percent. -/
theorem witness_ConstantInputBits :
    Config.ex1.percentLast ≤ 100 ∧ 0 ≤ ((0 : Half) <<< 4).toInt ∧ ((-1 : Half) <<< 4).toInt < 0 ∧
    { Config.ex1 with percentLast := 99 }.percentLast < 100 ∧ { Config.ex1 with percentLast := 100 }.percentLast = 100 ∧
    (after (exec (.sample 0 0) busy)).isSome = true ∧ (after (exec (.sample (-1) 0) busy)).isSome = true := by decide

/-- The smallest and the largest test amplitude, the baseline at the ends of its range. -/
theorem witness_LineCodeClassifiedBySign :
    { Config.ex1 with percentLast := 99 }.percentLast < 100 ∧
    signDecides 1 { searching with amplitudeLast := 16 } ∧ signDecides 1 { searching with amplitudeLast := -15 } ∧
    signDecides 2047 { searching with amplitudeLast := 32752 } := by unfold signDecides; decide

theorem witness_HeaderPatternsComplementary : configLegal Config.ex2 = true ∧ 7 < Config.ex2.headerWidth := by decide

theorem witness_FirstSampleAfterReset : configLegal Config.ex1 = true ∧
    (1 : Nat) = (if (0 : Int) ≤ ((0 : Half) <<< 4).toInt then 1 else 0) ∧
    (0 : Nat) = (if (0 : Int) ≤ ((-1 : Half) <<< 4).toInt then 1 else 0) := by decide

/-- V4-1 and V4-3, last bits, and a state in which neither pattern comes about. -/
theorem witness_SearchStepShiftsAndCompares : configLegal searching.cfg = true ∧ searching.isReadingHeader = true ∧
    windowAfter 1000 { searching with window := 0x79A } = searching.cfg.header ∧
    windowAfter (-1000) { searching with window := 0x065 } =
      2 ^ searching.cfg.headerWidth - 1 - searching.cfg.header ∧
    windowAfter 1000 searching ≠ searching.cfg.header ∧
    windowAfter 1000 searching ≠ 2 ^ searching.cfg.headerWidth - 1 - searching.cfg.header := by decide

theorem witness_SearchStepShiftsAndCompares_inv : searching.Inv := searching_inv

theorem witness_SequencingTransitions :
    (searching.Inv ∧ configLegal searching.cfg = true ∧ sequencing searching = .searching) ∧
    (lastBit.Inv ∧ configLegal lastBit.cfg = true ∧ sequencing lastBit = .lockedNormal 7) ∧
    (busy.Inv ∧ configLegal busy.cfg = true ∧ sequencing busy = .lockedIgnore 19) ∧
    after (exec .nop busy) = some busy ∧ (after (exec .scanEnd busy)).isSome = true :=
  ⟨⟨searching_inv, by decide⟩, ⟨lastBit_inv, by decide⟩, ⟨busy_inv, by decide⟩, by decide⟩

/-- The last but one bit of a slot, in both modes. -/
theorem witness_LockedSampleShiftsIn :
    (configLegal Config.ex1 = true ∧ (locked Config.ex1 true 6 0).isReadingHeader = false ∧
      (locked Config.ex1 true 6 0).bitIndex.toNat + 1 < (if (locked Config.ex1 true 6 0).ignoreHeaders then 20 else 8)) ∧
    (configLegal Config.ex3 = true ∧ (ignoring Config.ex3 1 18 0).isReadingHeader = false ∧
      (ignoring Config.ex3 1 18 0).bitIndex.toNat + 1 <
        (if (ignoring Config.ex3 1 18 0).ignoreHeaders then Config.ex3.ignoreSlotBits else 8)) := by decide

/-- A byte that is escaped, in ignore-headers mode with the buffer full, and one that passes, in normal mode. -/
theorem witness_ByteCompletionRunsFourSteps :
    (configLegal busy.cfg = true ∧ lastOfSlot { busy with tempByte := 0x0F } ∧
      busy.dataoutIndex ≤ busy.cfg.dataoutCapacity ∧ slotByte 0 { busy with tempByte := 0x0F } = 0x1F ∧
      busy.cfg.escapeEnable = true ∧ reservedByte busy.cfg 0x1F ∧
      [busy.cfg.escMarker, (0x1F : Byte) ^^^ busy.cfg.escXor] = [0x7F, 0x5F]) ∧
    (configLegal lastBit.cfg = true ∧ lastOfSlot lastBit ∧ lastBit.dataoutIndex ≤ lastBit.cfg.dataoutCapacity ∧
      slotByte (-1000) lastBit = 0x53 ∧ ¬(lastBit.cfg.escapeEnable = true ∧ reservedByte lastBit.cfg 0x53)) := by
  unfold lastOfSlot reservedByte; decide

theorem witness_AppendsExtendContents :
    contents busy = .ok [0x53, 0x51, 0x41, 0x42, 0x43] ∧ busy.dataoutIndex ≤ busy.cfg.dataoutCapacity :=
  ⟨rfl, by decide⟩

theorem witness_MatcherIsNaive : searching.matchIdx = 0 ∧ searching.sqanHeaderFound = false ∧
    searching.cfg.syncMarker0 ≠ searching.cfg.syncMarker1 := by decide

/-- The bytes on both sides of the reserved range. -/
theorem witness_EscapeRoundTrip : configLegal Config.ex3 = true ∧ Config.ex3.escapeEnable = true ∧
    reservedByte Config.ex3 0x1F ∧ reservedByte Config.ex3 0xFF ∧ ¬reservedByte Config.ex3 0x20 := by
  unfold reservedByte; decide

theorem witness_ScanEndHandsOver : (0x212345678 : InputWord).toNat / 2 ^ 32 = 2 ∧
    busy.dataoutIndex ≤ busy.cfg.dataoutCapacity ∧
    (∀ k < busy.dataoutIndex, (memLookup busy.dataout k).isSome = true) ∧
    Instr.sample 0 0 ≠ .scanEnd ∧ (after (exec (.sample 0 0) busy)).isSome = true := by decide

theorem witness_SecondScanEndIsEmpty : busy.Inv := busy_inv

/-- A cell outside the memory, and one that nothing has written. -/
theorem witness_ScanEndFaultsOnMissingCell :
    (∃ k < ({ busy with dataoutIndex := 6 } : State).dataoutIndex, busy.cfg.dataoutCapacity ≤ k) ∧
    (∃ k < ({ fresh Config.ex1 with dataoutIndex := 1 } : State).dataoutIndex,
      memLookup (fresh Config.ex1).dataout k = none) := by decide

theorem witness_StepKeepsInvariants : (coming busy [item Config.ex3 0x103E80000]).Inv ∧
    (after (step (coming busy [item Config.ex3 0x103E80000]))).isSome = true :=
  ⟨by constructor <;> decide, by decide⟩

theorem witness_OperationsAreTotal :
    Instr.wellFormed (.sample (-32768) 0) = true ∧ configLegal busy.cfg = true ∧ busy.Inv :=
  ⟨rfl, by decide, busy_inv⟩

/-- A sample, a `NOP`, a scan end, a reset to another configuration, a sample under that one. -/
def stream : List InputStep :=
  [item Config.ex3 0x103E80000, item Config.ex3 0, item Config.ex3 0x200000000, ⟨true, Config.ex2, 0x200000000⟩,
    item Config.ex2 0x1FC180000]

theorem witness_LegalRunCompletes :
    (coming busy stream).Inv ∧ inputLegal (coming busy stream).cfg (coming busy stream).input = true :=
  ⟨by constructor <;> decide, by decide⟩

theorem witness_NopsCanBeLeftOut : inputLegal (coming busy stream).cfg (coming busy stream).input = true ∧
    (coming busy stream).input.any isNop = true := by decide

/-- Two states that differ in the cells 2 and 3, which no flush reads. -/
theorem witness_DeadCellsUnobservable :
    EqualButDeadCells (coming searching [item Config.ex1 0x200000000])
      (coming { searching with dataout := [(0, 0x41), (1, 0x42), (2, 0x99), (3, 0x98)] } [item Config.ex1 0x200000000]) ∧
    (after (runSteps 1 (coming searching [item Config.ex1 0x200000000]))).isSome = true :=
  ⟨⟨by decide, by decide⟩, by decide⟩

/-- One bit before the header on a normal and on an inverted link. -/
theorem witness_MirroredStatesStayMirrored : configLegal searching.cfg = true ∧
    MirrorImages { searching with window := 0x79A } { searching with window := 0x865, amplitudeLast := -800 } ∧
    rawBit (-1000) { searching with window := 0x865, amplitudeLast := -800 } =
      !rawBit 1000 { searching with window := 0x79A } ∧
    (after (exec .scanEnd { searching with window := 0x79A })).isSome = true :=
  ⟨by decide, ⟨by decide, by decide, by decide, by decide, by decide⟩, by decide, by decide⟩

theorem witness_StatusOutputsIgnoreBuffer :
    searching.cfg = { searching with dataout := [(0, 0x99), (1, 0x98)] }.cfg ∧
    statusOutputs searching = statusOutputs { searching with dataout := [(0, 0x99), (1, 0x98)] } ∧
    (after (exec .scanEnd searching)).isSome = true ∧
    (after (exec .scanEnd { searching with dataout := [(0, 0x99), (1, 0x98)] })).isSome = true := by decide

/-- A bit, a scan end and a `NOP` on a normal link, one bit before the header, and on the inverted one. -/
def onLink (inv : Bool) : State :=
  coming { searching with window := if inv then 0x865 else 0x79A }
    (stimulus Config.ex1 ([txBit (BitVec.ofNat 16 2047) true, .scanEnd, .nop].map (if inv then negated else id)))

theorem witness_InvertedLinkGivesSameRecords : configLegal (onLink false).cfg = true ∧ (onLink false).Inv ∧
    MirrorImages (onLink false) (onLink true) ∧ (onLink false).cfg.percentLast < 100 ∧
    signDecides 2047 (onLink false) ∧ signDecides 2047 (onLink true) ∧
    (∀ i ∈ [txBit (BitVec.ofNat 16 2047) true, .scanEnd, .nop],
      i = .nop ∨ i = .scanEnd ∨ ∃ b, i = txBit (BitVec.ofNat 16 2047) b) ∧
    (onLink false).input =
      stimulus (onLink false).cfg [txBit (BitVec.ofNat 16 2047) true, .scanEnd, .nop] ∧
    (onLink true).input =
      stimulus (onLink false).cfg ([txBit (BitVec.ofNat 16 2047) true, .scanEnd, .nop].map negated) :=
  ⟨by decide, by constructor <;> decide, ⟨by decide, by decide, by decide, by decide, by decide⟩, by decide,
    by unfold signDecides; decide, by unfold signDecides; decide, by decide, by decide, by decide⟩

/-- A buffer of one byte beside one of sixteen, after two bytes. -/
theorem witness_CapacityOnlyTruncates :
    TruncationOf
      { holding (locked { Config.ex1 with dataoutCapacity := 1 } false 7 0x29) [0x41] with overflow := true }
      (holding (locked Config.ex1 false 7 0x29) [0x41, 0x42]) ∧
    2 + 2 ≤ Config.ex1.dataoutCapacity :=
  ⟨⟨by decide, by decide, by decide, by decide⟩, by decide⟩

/-- 21 samples, as many as are left of the mode. -/
def lastSamples : List (Half × Half) := List.replicate 21 (1000, 0)

theorem witness_IgnoreModeLastsItsSlots :
    (coming busy (stimulus Config.ex3 (lastSamples.map fun x => .sample x.1 x.2) ++ [])).Inv ∧
    configLegal busy.cfg = true ∧ busy.ignoreHeaders = true ∧ lastSamples.length ≤ blindSamples busy ∧
    ([] : List (Half × Half)).length ≤ blindSamples busy :=
  ⟨by constructor <;> decide, by decide⟩

/-- From the all-ones window no header bit before the last completes a pattern, on a link of either polarity. -/
theorem noEarlyMatch_ones (inv : Bool) : noEarlyMatch Config.ex1 inv 0xFFF := by
  have h : ∀ k < 12, 0 < k → ∀ inv,
      lineWindow Config.ex1 inv 0xFFF k ≠ 0xF35 ∧ lineWindow Config.ex1 inv 0xFFF k ≠ 2 ^ 12 - 1 - 0xF35 := by decide
  exact fun k h0 hk => h k hk h0 inv

/-- SEARCHING with bytes in the buffer, the window all ones, the baseline at the edge of the test amplitude. -/
def idle : State := { searching with window := 0xFFF, amplitudeLast := 16000 }

theorem idle_inv : idle.Inv := by constructor <;> decide

theorem idle_sign : signDecides 1000 idle := by unfold signDecides; decide

/-- The same with input items to come. -/
def beforeFrame (xs : List InputStep) : State := coming idle xs

theorem beforeFrame_inv (xs : List InputStep) : (beforeFrame xs).Inv :=
  have h := idle_inv
  ⟨h.1, h.2, h.3, h.4, h.5, h.6, h.7, h.8, h.9, h.10⟩

theorem witness_TransmittedHeaderLocks (inv : Bool) :
    configLegal (beforeFrame (stimulus Config.ex1 (txHeader Config.ex1 (linkAmplitude 1000 inv)) ++ [])).cfg = true ∧
    Config.ex1.percentLast < 100 ∧
    signDecides 1000 (beforeFrame (stimulus Config.ex1 (txHeader Config.ex1 (linkAmplitude 1000 inv)) ++ [])) ∧
    searching.isReadingHeader = true ∧ noEarlyMatch searching.cfg inv 0xFFF :=
  ⟨test_config_ex1, by decide, idle_sign, by decide, noEarlyMatch_ones inv⟩

theorem witness_TransmittedByteRecovered :
    (coming firstBit (stimulus Config.ex1 (txByte (linkAmplitude 1000 true) 0x53) ++ [])).Inv ∧
    firstBit.isSignalInverted = true ∧ configLegal firstBit.cfg = true ∧ firstBit.cfg.percentLast < 100 ∧
    signDecides 1000 firstBit ∧ firstBit.isReadingHeader = false ∧ firstBit.ignoreHeaders = false ∧
    firstBit.bitIndex = 0 ∧ contents firstBit = .ok [0x41] :=
  ⟨by constructor <;> decide, by decide, by decide, by decide, by unfold signDecides; decide, by decide, by decide,
    by decide, rfl⟩

theorem witness_TransmittedFrameRecovered (inv : Bool) (v : Byte) :
    (beforeFrame (stimulus Config.ex1 (txFrame Config.ex1 (linkAmplitude 1000 inv) v) ++ [])).Inv ∧
    configLegal searching.cfg = true ∧ searching.cfg.percentLast < 100 ∧
    signDecides 1000 (beforeFrame (stimulus Config.ex1 (txFrame Config.ex1 (linkAmplitude 1000 inv) v) ++ [])) ∧
    searching.isReadingHeader = true ∧ noEarlyMatch searching.cfg inv 0xFFF ∧
    contents (beforeFrame (stimulus Config.ex1 (txFrame Config.ex1 (linkAmplitude 1000 inv) v) ++ [])) =
      .ok [0x41, 0x42] :=
  ⟨beforeFrame_inv _, by decide, by decide, idle_sign, by decide, noEarlyMatch_ones inv, rfl⟩

end Sys2Proof.Tests
end

/-!
PROOFS about the configuration (00_scope.md): when it can change, and the escape coding it parametrises.
-/

namespace Sys2Proof.Machine

/-! ### The configuration in force -/

/-- A word under another configuration than the one in force is refused before the legality of either is looked at
(20_memory.md R73; log entry 4). -/
theorem step_of_changed_cfg {s : State} {x : InputStep} {rest : List InputStep} (hi : s.input = x :: rest)
    (hr : x.rst = false) (hc : x.cfg ≠ s.cfg) : step s = .refused .configurationChanged := by
  simp [step, fetch, hi, hr, hc]

/-- No operation that answers touches the configuration in force or the input still to come. -/
theorem exec_next_cfg_input {i : Instr} {s t : State} (h : exec i s = .next t) :
    t.cfg = s.cfg ∧ t.input = s.input := by
  rcases exec_next_cases h with ⟨-, rfl⟩ | ⟨iRaw, qRaw, -, rfl⟩ | ⟨-, bytes, -, rfl⟩
  · exact ⟨rfl, rfl⟩
  · exact ⟨sampleNext_cfg iRaw qRaw s, sampleNext_input iRaw qRaw s⟩
  · simp

/-- A step that answers consumes exactly its item and leaves the presented configuration in force: a step with `rst`
applies it (70_reset_and_hazards.md R253), and a word runs only if it presents the one in force already. -/
theorem step_next_cfg_input {s t : State} {x : InputStep} {rest : List InputStep} (hi : s.input = x :: rest)
    (h : step s = .next t) : t.cfg = x.cfg ∧ t.input = rest := by
  obtain ⟨y, tail, hy, hstep⟩ := step_next_cases h
  obtain ⟨rfl, rfl⟩ : x = y ∧ rest = tail := by simpa using hi.symm.trans hy
  rcases hstep with ⟨-, rfl⟩ | ⟨-, hcfg, -, hexec⟩
  · exact ⟨State.resetWith_cfg _ _ _, State.resetWith_input _ _ _⟩
  · obtain ⟨htcfg, htinput⟩ := exec_next_cfg_input hexec
    exact ⟨htcfg.trans hcfg.symm, htinput⟩

/-! ### The escape coding -/

/-- The reserved set as 42_byte_assembler.md R165 tests it. -/
theorem needsEscape_iff (c : Config) (b : Byte) : needsEscape c b = true ↔ reservedByte c b := by
  simp [needsEscape, reservedByte]

/-- The reserved set as 00_scope.md R12 lists it. -/
theorem mem_escSet_iff (c : Config) (b : Byte) : b ∈ escSet c ↔ reservedByte c b := by
  have low : (∃ n < 32, BitVec.ofNat 8 n = b) ↔ b.toNat < 32 := by
    constructor
    · rintro ⟨n, hn, rfl⟩
      rw [BitVec.toNat_ofNat]; omega
    · exact fun hb => ⟨b.toNat, hb, by simp⟩
  simp [escSet, reservedByte, low]

/-- What a legal configuration with escape coding on gives: the constraints (a) and (b) of 00_scope.md R12. -/
theorem escape_constraints {c : Config} (hl : configLegal c = true) (he : c.escapeEnable = true) :
    reservedByte c c.escMarker ∧ ∀ b, reservedByte c b → ¬reservedByte c (b ^^^ c.escXor) := by
  obtain ⟨-, -, -, -, -, -, -, -, -, hesc⟩ := configLegal_spec hl
  simpa [escapeLegal, he, needsEscape_iff, mem_escSet_iff, ← Bool.not_eq_true] using hesc

theorem escape_of_reserved {c : Config} {b : Byte} (he : c.escapeEnable = true) (hb : reservedByte c b) :
    escape c b = [c.escMarker, b ^^^ c.escXor] := by
  simp [escape, he, (needsEscape_iff c b).mpr hb]

theorem escape_of_not_reserved {c : Config} {b : Byte} (hb : ¬reservedByte c b) : escape c b = [b] := by
  simp [escape, Bool.eq_false_iff.mpr (mt (needsEscape_iff c b).mp hb)]

/-- The decoder undoes an escape pair: the transformation is its own inverse. -/
theorem hostDecode_pair (c : Config) (b : Byte) (rest : List Byte) :
    hostDecode c (c.escMarker :: (b ^^^ c.escXor) :: rest) = b :: hostDecode c rest := by
  simp [hostDecode]

/-- The decoder passes a byte that is not the marker. -/
theorem hostDecode_plain {c : Config} {b : Byte} (hb : b ≠ c.escMarker) (rest : List Byte) :
    hostDecode c (b :: rest) = b :: hostDecode c rest := by
  cases rest <;> simp [hostDecode, hb]

/-- One escaped byte in front of any stream decodes to that byte. The marker is itself reserved, so a byte that passes
unchanged is never taken for one. -/
theorem hostDecode_escape_append {c : Config} (he : c.escapeEnable = true) (hm : reservedByte c c.escMarker) (b : Byte)
    (rest : List Byte) : hostDecode c (escape c b ++ rest) = b :: hostDecode c rest := by
  by_cases hb : reservedByte c b
  · rw [escape_of_reserved he hb]
    exact hostDecode_pair c b rest
  · have hne : b ≠ c.escMarker := fun h => hb (h ▸ hm)
    rw [escape_of_not_reserved hb]
    exact hostDecode_plain hne rest

/-- The round trip of 42_byte_assembler.md R172. -/
theorem hostDecode_flatMap_escape {c : Config} (he : c.escapeEnable = true) (hm : reservedByte c c.escMarker)
    (bytes : List Byte) : hostDecode c (bytes.flatMap (escape c)) = bytes := by
  induction bytes with
  | nil => rfl
  | cons b bytes ih => rw [List.flatMap_cons, hostDecode_escape_append he hm, ih]

end Sys2Proof.Machine

namespace Sys2Proof

open Sys2Proof.Machine

/-- Settles O26: the two constraints of 00_scope.md R12 give the round trip and that no escape expands twice. -/
theorem escapeRoundTrip : Obligations.EscapeRoundTrip := by
  intro c hl he
  obtain ⟨hmarker, hxor⟩ := escape_constraints hl he
  exact ⟨hostDecode_flatMap_escape he hmarker, fun b hb => ⟨escape_of_reserved he hb, hxor b hb⟩,
    fun _ => escape_of_not_reserved⟩

/-- Settles O9, from the order of the checks in `fetch` and from everything an answering step can do. -/
theorem configurationChangesOnlyAtReset : Obligations.ConfigurationChangesOnlyAtReset :=
  ⟨fun _ _ _ => step_of_changed_cfg, fun _ _ _ _ => step_next_cfg_input⟩

end Sys2Proof

/-!
PROOFS about the state (10_state.md): the invariants of its registers, the sequencing state, and the status outputs.
-/

namespace Sys2Proof.Machine

/-! ### The numbers of the search (00_scope.md R8, 41_header_detector.md R141) -/

/-- Shifting a bit into a register: twice the number plus the bit, kept to the width. -/
theorem shiftIn_toNat {n : Nat} (hn : 0 < n) (w : BitVec n) (bit : Bool) :
    (w <<< 1 ||| (BitVec.ofBool bit).setWidth n).toNat = (2 * w.toNat + bit.toNat) % 2 ^ n := by
  have hdisjoint : w <<< 1 &&& (BitVec.ofBool bit).setWidth n = 0#n := by
    ext i hi
    cases i <;> simp
  have hbit : bit.toNat < 2 ^ n := (Bool.toNat_lt bit).trans_le (Nat.le_self_pow hn.ne' 2)
  rw [← BitVec.add_eq_or_of_and_eq_zero _ _ hdisjoint]
  simp [Nat.shiftLeft_eq, Nat.mul_comm]

theorem mask_toNat {c : Config} (hw : c.headerWidth ≤ 12) : (mask c).toNat = 2 ^ c.headerWidth - 1 := by
  have hle : 2 ^ c.headerWidth ≤ 2 ^ 12 := Nat.pow_le_pow_right (by decide) hw
  rw [mask, maskNat, BitVec.toNat_ofNat]
  exact Nat.mod_eq_of_lt (by omega)

theorem shiftWindow_toNat {c : Config} (hw : c.headerWidth ≤ 12) (w : BitVec 12) (bit : Bool) :
    (shiftWindow c w bit).toNat = (2 * w.toNat + bit.toNat) % 2 ^ c.headerWidth := by
  rw [shiftWindow, BitVec.toNat_and, mask_toNat hw, Nat.and_two_pow_sub_one_eq_mod, shiftIn_toNat (by decide),
    Nat.mod_mod_of_dvd _ (Nat.pow_dvd_pow 2 hw)]

theorem headerWord_toNat {c : Config} (hl : configLegal c = true) : (headerWord c).toNat = c.header := by
  obtain ⟨-, hheader, -⟩ := configLegal_spec hl
  have hle : 2 ^ c.headerWidth ≤ 2 ^ 12 := Nat.pow_le_pow_right (by decide) (configLegal_width_le hl)
  rw [headerWord, BitVec.toNat_ofNat]
  exact Nat.mod_eq_of_lt (by rw [maskNat] at hheader; omega)

theorem inverseHeader_toNat {c : Config} (hl : configLegal c = true) :
    (inverseHeader c).toNat = 2 ^ c.headerWidth - 1 - c.header := by
  have hw := configLegal_width_le hl
  obtain ⟨-, hheader, -⟩ := configLegal_spec hl
  rw [maskNat] at hheader
  have hpos := Nat.two_pow_pos c.headerWidth
  rw [inverseHeader, BitVec.toNat_and, mask_toNat hw, BitVec.toNat_not, headerWord_toNat hl,
    Nat.and_two_pow_sub_one_eq_mod]
  obtain ⟨k, hk⟩ := Nat.pow_dvd_pow 2 hw
  obtain ⟨j, rfl⟩ : ∃ j, k = j + 1 := Nat.exists_eq_add_one.mpr (Nat.pos_of_ne_zero (by rintro rfl; simp at hk))
  have hsplit : 2 ^ 12 - 1 - c.header = 2 ^ c.headerWidth - 1 - c.header + 2 ^ c.headerWidth * j := by
    rw [hk, Nat.mul_succ]; omega
  rw [hsplit, Nat.add_mul_mod_self_left]
  exact Nat.mod_eq_of_lt (by omega)

/-! ### The slot and its length -/

theorem bitsNeeded_of_normal {s : State} (h : s.ignoreHeaders = false) : bitsNeeded s = 8 := by
  simp [bitsNeeded, byteBits, h]

theorem bitsNeeded_of_ignoring {s : State} (h : s.ignoreHeaders = true) : bitsNeeded s = s.cfg.ignoreSlotBits := by
  simp [bitsNeeded, h]

/-- The slot lengths a legal configuration allows (00_scope.md R9): neither can wrap the 5-bit `bitIndex`. -/
theorem bitsNeeded_bounds {s : State} (hl : configLegal s.cfg = true) : 8 ≤ bitsNeeded s ∧ bitsNeeded s ≤ 31 := by
  obtain ⟨-, -, -, -, -, hlow, hhigh, -⟩ := configLegal_spec hl
  cases hi : s.ignoreHeaders with
  | false => rw [bitsNeeded_of_normal hi]; omega
  | true => rw [bitsNeeded_of_ignoring hi]; exact ⟨hlow, hhigh⟩

theorem bitsNeeded_pos {s : State} (hl : configLegal s.cfg = true) : 0 < bitsNeeded s := by
  have := bitsNeeded_bounds hl
  omega

theorem bitIndex_succ_toNat {s : State} (hs : s.Inv) (hl : configLegal s.cfg = true) :
    (s.bitIndex + 1).toNat = s.bitIndex.toNat + 1 := by
  have hopen := hs.slotOpen
  obtain ⟨-, hle⟩ := bitsNeeded_bounds hl
  rw [BitVec.toNat_add]
  exact Nat.mod_eq_of_lt (by change s.bitIndex.toNat + 1 < 32; omega)

/-! ### The end of a slot -/

theorem append_setSlot (s : State) (t : Byte) (k : BitVec 5) (o : Byte) :
    append (s.setSlot t k) o = (append s o).setSlot t k := by
  rcases append_cases s o with ⟨h, e⟩ | ⟨h, e⟩ <;> rw [e]
  · exact if_pos h
  · exact if_neg (Nat.not_lt.mpr h)

theorem appendAll_setSlot (s : State) (t : Byte) (k : BitVec 5) (out : List Byte) :
    appendAll (s.setSlot t k) out = (appendAll s out).setSlot t k := by
  induction out generalizing s with
  | nil => rfl
  | cons o out ih => rw [appendAll_cons, append_setSlot, ih]; rfl

/-- The next-state decision opens a new slot, so it does not see the old one (42_byte_assembler.md R168). -/
theorem nextState_setSlot (s : State) (t : Byte) (k : BitVec 5) : nextState (s.setSlot t k) = nextState s := rfl

/-- `s` once the completed byte `b` is escaped, appended and fed to the matcher, its slot not yet closed
(R163 steps 1 to 3). -/
def deliverByte (b : Byte) (s : State) : State := matchSync b (appendAll s (escape s.cfg b))

theorem completeByte_setSlot (s : State) (b : Byte) (k : BitVec 5) :
    completeByte (s.setSlot b k) = nextState (deliverByte b s) := by
  rw [completeByte, State.setSlot_tempByte, State.setSlot_cfg, appendAll_setSlot]
  exact nextState_setSlot (deliverByte b s) b k

section
variable (b : Byte) (s : State)
@[simp] theorem deliverByte_isReadingHeader : (deliverByte b s).isReadingHeader = s.isReadingHeader := by
  simp [deliverByte, matchSync]
@[simp] theorem deliverByte_ignoreHeaders : (deliverByte b s).ignoreHeaders = s.ignoreHeaders := by
  simp [deliverByte, matchSync]
@[simp] theorem deliverByte_slotsLeft : (deliverByte b s).slotsLeft = s.slotsLeft := by
  simp [deliverByte, matchSync]
@[simp] theorem deliverByte_cfg : (deliverByte b s).cfg = s.cfg := by
  simp [deliverByte, matchSync]
end

/-- Everything an assemble step can do in a state with an open slot: count a bit inside the slot, or deliver its byte
and decide what follows (R161, R163). -/
theorem assembleStep_openSlot_cases {s : State} (hs : s.Inv) (hl : configLegal s.cfg = true) (bit : Bool) :
    (s.bitIndex.toNat + 1 < bitsNeeded s ∧
      assembleStep bit s = s.setSlot (shiftByte s.tempByte bit) (s.bitIndex + 1)) ∨
    (s.bitIndex.toNat + 1 = bitsNeeded s ∧
      assembleStep bit s = nextState (deliverByte (shiftByte s.tempByte bit) s)) := by
  have hopen := hs.slotOpen
  rcases assembleStep_cases bit s with ⟨h, e⟩ | ⟨h, e⟩ <;> rw [bitIndex_succ_toNat hs hl] at h
  · exact .inr ⟨h, e.trans (completeByte_setSlot _ _ _)⟩
  · exact .inl ⟨by omega, e⟩

/-! ### The invariants (R23, R25 to R28, R30) -/

theorem appendAll_cells_written {s : State} (hi : s.dataoutIndex ≤ s.cfg.dataoutCapacity)
    (hw : ∀ k < s.dataoutIndex, (memLookup s.dataout k).isSome = true) (out : List Byte) :
    ∀ k < (appendAll s out).dataoutIndex, (memLookup (appendAll s out).dataout k).isSome = true := by
  intro k hk
  rw [appendAll_dataoutIndex hi] at hk
  rw [appendAll_memLookup]
  split
  · simp; omega
  · exact hw k (by omega)

theorem State.resetWith_inv (c : Config) (xs : List InputStep) (rs : List FlushRecord) :
    (State.resetWith c xs rs).Inv where
  windowMasked := Nat.two_pow_pos _
  slotOpen := by simp [bitsNeeded_of_normal (State.resetWith_ignoreHeaders c xs rs)]
  searchingIdle _ := ⟨rfl, rfl⟩
  ignoreLocked := nofun
  slotsCounted := by simp
  slotsBounded := Nat.zero_le _
  indexInside := Nat.zero_le _
  memoryWf := rfl
  cellsInside := nofun
  cellsWritten := nofun

section
variable {s : State} (hs : s.Inv)
include hs

theorem State.Inv.normal_of_searching (hr : s.isReadingHeader = true) : s.ignoreHeaders = false := by
  by_contra h
  simp [hs.ignoreLocked (by simpa using h)] at hr

theorem State.Inv.setInput (xs : List InputStep) : (s.setInput xs).Inv := { hs with }

theorem State.Inv.setAmplitudeLast (v : Half) : (s.setAmplitudeLast v).Inv := { hs with }

/-- Per-scan state is cleared to an empty buffer, whatever cells stay listed (43_scan_control.md R204). -/
theorem State.Inv.scanEnd (r : FlushRecord) : ((s.emitRecord r).clearScan).Inv :=
  { hs with indexInside := Nat.zero_le _, cellsWritten := nofun }

theorem State.Inv.appendAll (out : List Byte) : (appendAll s out).Inv := by
  have hindex : (Machine.appendAll s out).dataoutIndex ≤ s.cfg.dataoutCapacity := by
    rw [appendAll_dataoutIndex hs.indexInside]; exact Nat.min_le_left _ _
  have hwritten := appendAll_cells_written hs.indexInside hs.cellsWritten out
  rw [appendAll_frame]
  exact { hs with
    indexInside := hindex
    memoryWf := appendAll_memory_wf hs.memoryWf out
    cellsInside := appendAll_cells_inside hs.cellsInside out
    cellsWritten := hwritten }

theorem State.Inv.deliverByte (b : Byte) : (deliverByte b s).Inv := { hs.appendAll (escape s.cfg b) with }

variable (hl : configLegal s.cfg = true)
include hl

/-- A search step masks its window, and a match opens an empty slot in normal mode. -/
theorem State.Inv.searchStep (bit : Bool) : (searchStep bit s).Inv := by
  have hwindow : (s.setWindow (shiftWindow s.cfg s.window bit)).Inv :=
    { hs with
      windowMasked := by
        rw [State.setWindow_window, shiftWindow_toNat (configLegal_width_le hl)]
        exact Nat.mod_lt _ (Nat.two_pow_pos _) }
  have hlock (inv : Bool) : ((s.setWindow (shiftWindow s.cfg s.window bit)).lock inv).Inv :=
    { hwindow with
      slotOpen := bitsNeeded_pos hl
      searchingIdle := nofun
      ignoreLocked := fun _ => rfl }
  rcases searchStep_cases bit s with ⟨-, e⟩ | ⟨-, -, e⟩ | ⟨-, -, e⟩ <;> rw [e]
  · exact hlock false
  · exact hlock true
  · exact hwindow

variable (hr : s.isReadingHeader = false)
include hr

/-- The end of a slot leaves the bits at zero, the mode and its count together, and the count inside its interval. -/
theorem State.Inv.nextState : (nextState s).Inv := by
  obtain ⟨-, -, -, -, -, -, -, hinterval, -⟩ := configLegal_spec hl
  have hbounded := hs.slotsBounded
  rcases nextState_cases s with ⟨hi, h0, e⟩ | ⟨hi, h0, e⟩ | ⟨hi, -, -, hpos, e⟩ | ⟨hi, -, e⟩ <;> rw [e]
  · exact { hs with
      slotOpen := bitsNeeded_pos hl
      searchingIdle := fun _ => ⟨rfl, rfl⟩
      ignoreLocked := nofun
      slotsCounted := by simp
      slotsBounded := Nat.zero_le _ }
  · have hcount := hs.slotsCounted.mpr hi
    have hne : s.slotsLeft.toNat ≠ 1 := fun h => h0 (by bv_omega)
    have hsub : (s.slotsLeft - 1).toNat = s.slotsLeft.toNat - 1 := by bv_omega
    exact { hs with
      slotOpen := bitsNeeded_pos hl
      searchingIdle := fun _ => ⟨rfl, rfl⟩
      slotsCounted := by simp only [hsub, hi, iff_true]; omega
      slotsBounded := by simp only [hsub]; omega }
  · have hload : (BitVec.ofNat 8 s.cfg.timingInterval).toNat = s.cfg.timingInterval := by
      rw [BitVec.toNat_ofNat]; omega
    exact { hs with
      slotOpen := bitsNeeded_pos hl
      searchingIdle := fun _ => ⟨rfl, rfl⟩
      ignoreLocked := fun _ => hr
      slotsCounted := by simp only [hload, iff_true]; exact hpos
      slotsBounded := hload.le }
  · exact { hs with
      slotOpen := bitsNeeded_pos hl
      searchingIdle := fun _ => ⟨rfl, rfl⟩
      ignoreLocked := by simp [hi] }

theorem State.Inv.assembleStep (bit : Bool) : (assembleStep bit s).Inv := by
  rcases assembleStep_openSlot_cases hs hl bit with ⟨hlt, e⟩ | ⟨-, e⟩ <;> rw [e]
  · exact { hs with
      slotOpen := (bitIndex_succ_toNat hs hl).trans_lt hlt
      searchingIdle := by simp [hr] }
  · exact (hs.deliverByte _).nextState (by simpa using hl) (by simpa using hr)

end

theorem State.Inv.sampleNext {s : State} (hs : s.Inv) (hl : configLegal s.cfg = true) (iRaw qRaw : Half) :
    (sampleNext iRaw qRaw s).Inv := by
  have hbaseline := hs.setAmplitudeLast (baseline s.cfg (sampleAmplitude iRaw qRaw))
  rcases sampleNext_cases iRaw qRaw s with ⟨-, e⟩ | ⟨hr, e⟩ <;> rw [e]
  · exact hbaseline.searchStep hl _
  · exact hbaseline.assembleStep hl hr _

/-- Under a legal configuration every operation keeps the invariants. -/
theorem exec_keeps_inv {i : Instr} {s t : State} (hs : s.Inv) (hl : configLegal s.cfg = true)
    (h : exec i s = .next t) : t.Inv := by
  rcases exec_next_cases h with ⟨-, rfl⟩ | ⟨iRaw, qRaw, -, rfl⟩ | ⟨-, bytes, -, rfl⟩
  · exact hs
  · exact hs.sampleNext hl iRaw qRaw
  · exact hs.scanEnd _

/-! ### The sequencing state (R34) -/

theorem sequencing_of_searching {s : State} (hr : s.isReadingHeader = true) : sequencing s = .searching := by
  simp [sequencing, hr]

theorem sequencing_of_normal {s : State} (hr : s.isReadingHeader = false) (hi : s.ignoreHeaders = false) :
    sequencing s = .lockedNormal s.bitIndex.toNat := by
  simp [sequencing, hr, hi]

theorem sequencing_of_ignoring {s : State} (hr : s.isReadingHeader = false) (hi : s.ignoreHeaders = true) :
    sequencing s = .lockedIgnore s.bitIndex.toNat := by
  simp [sequencing, hr, hi]

/-- The statements' raw bit is the classifier's. -/
theorem sampleBit_of_searching {s : State} (hr : s.isReadingHeader = true) (iRaw qRaw : Half) :
    sampleBit iRaw qRaw s = rawBit iRaw s := by
  simp only [sampleBit, applyPolarity, hr, Bool.not_true, Bool.false_and, Bool.false_eq_true, if_false]; rfl

/-- The window a sample leaves while SEARCHING is the number the statements compute. -/
theorem shiftWindow_sampleBit_toNat {s : State} (hl : configLegal s.cfg = true) (hr : s.isReadingHeader = true)
    (iRaw qRaw : Half) : (shiftWindow s.cfg s.window (sampleBit iRaw qRaw s)).toNat = windowAfter iRaw s := by
  rw [shiftWindow_toNat (configLegal_width_le hl), sampleBit_of_searching hr, windowAfter]

/-- A search step as the sequencing state shows it (41_header_detector.md R140). -/
theorem searchStep_sequencing {s : State} (hr : s.isReadingHeader = true) (hi : s.ignoreHeaders = false) (bit : Bool) :
    sequencing (searchStep bit s) =
      if shiftWindow s.cfg s.window bit = headerWord s.cfg ∨ shiftWindow s.cfg s.window bit = inverseHeader s.cfg then
        .lockedNormal 0
      else .searching := by
  have hlock (inv : Bool) :
      sequencing ((s.setWindow (shiftWindow s.cfg s.window bit)).lock inv) = .lockedNormal 0 :=
    sequencing_of_normal rfl hi
  rcases searchStep_cases bit s with ⟨hhdr, e⟩ | ⟨-, hinv, e⟩ | ⟨hhdr, hinv, e⟩ <;> rw [e]
  · rw [if_pos (.inl hhdr), hlock]
  · rw [if_pos (.inr hinv), hlock]
  · rw [if_neg (by tauto)]; exact sequencing_of_searching hr

/-- The next-state decision as the sequencing state shows it (42_byte_assembler.md R168). -/
theorem nextState_sequencing {s : State} (hr : s.isReadingHeader = false) : sequencing (nextState s) =
    if s.ignoreHeaders then if s.slotsLeft = 1 then .searching else .lockedIgnore 0
    else if s.cfg.byteTiming = true ∧ s.sqanHeaderFound = true ∧ 0 < s.cfg.timingInterval then .lockedIgnore 0
    else .searching := by
  rcases nextState_cases s with ⟨hi, h, e⟩ | ⟨hi, h, e⟩ | ⟨hi, ht, hf, hpos, e⟩ | ⟨hi, h, e⟩ <;> rw [e]
  · rw [if_pos hi, if_pos (sub_eq_zero.mp h)]; exact sequencing_of_searching rfl
  · rw [if_pos hi, if_neg (mt sub_eq_zero.mpr h)]; exact sequencing_of_ignoring hr hi
  · rw [if_neg (by simp [hi]), if_pos ⟨ht, hf, hpos⟩]; exact sequencing_of_ignoring hr rfl
  · rw [if_neg (by simp [hi]), if_neg h]; exact sequencing_of_searching rfl

section
variable {s : State} (hs : s.Inv) (hl : configLegal s.cfg = true) (hr : s.isReadingHeader = false) (bit : Bool)
include hs hl hr

/-- An assemble step in normal mode as the sequencing state shows it (R161, R168). -/
theorem assembleStep_sequencing_of_normal (hi : s.ignoreHeaders = false) : sequencing (assembleStep bit s) =
    if s.bitIndex.toNat + 1 < 8 then .lockedNormal (s.bitIndex.toNat + 1)
    else if s.cfg.byteTiming = true ∧ (assembleStep bit s).sqanHeaderFound = true ∧ 0 < s.cfg.timingInterval then
      .lockedIgnore 0
    else .searching := by
  rcases assembleStep_openSlot_cases hs hl bit with ⟨h, e⟩ | ⟨h, e⟩ <;> rw [e] <;> rw [bitsNeeded_of_normal hi] at h
  · rw [if_pos h, ← bitIndex_succ_toNat hs hl]
    exact sequencing_of_normal hr hi
  · rw [if_neg (by omega), nextState_sequencing (by simpa using hr)]
    simp [hi]

/-- An assemble step in ignore-headers mode as the sequencing state shows it (R161, R168). -/
theorem assembleStep_sequencing_of_ignoring (hi : s.ignoreHeaders = true) : sequencing (assembleStep bit s) =
    if s.bitIndex.toNat + 1 < s.cfg.ignoreSlotBits then .lockedIgnore (s.bitIndex.toNat + 1)
    else if s.slotsLeft = 1 then .searching
    else .lockedIgnore 0 := by
  rcases assembleStep_openSlot_cases hs hl bit with ⟨h, e⟩ | ⟨h, e⟩ <;> rw [e] <;> rw [bitsNeeded_of_ignoring hi] at h
  · rw [if_pos h, ← bitIndex_succ_toNat hs hl]
    exact sequencing_of_ignoring hr hi
  · rw [if_neg (by omega), nextState_sequencing (by simpa using hr)]
    simp [hi]

end

/-- A sample while SEARCHING, in the numbers of the statements (41_header_detector.md R140). -/
theorem sampleNext_sequencing_of_searching {s : State} (hs : s.Inv) (hl : configLegal s.cfg = true)
    (hr : s.isReadingHeader = true) (iRaw qRaw : Half) :
    sequencing (sampleNext iRaw qRaw s) =
      if windowAfter iRaw s = s.cfg.header ∨ windowAfter iRaw s = 2 ^ s.cfg.headerWidth - 1 - s.cfg.header then
        .lockedNormal 0
      else .searching := by
  rw [sampleNext, if_pos hr, searchStep_sequencing (by simpa using hr) (by simpa using hs.normal_of_searching hr)]
  simp only [State.setAmplitudeLast_cfg, State.setAmplitudeLast_window, ← BitVec.toNat_inj,
    shiftWindow_sampleBit_toNat hl hr, headerWord_toNat hl, inverseHeader_toNat hl]

/-! ### The status outputs (R36) -/

/-- `s` with the bytes, the records and the input to come blanked out: the configuration and the status outputs are
left. -/
def State.visible (s : State) : State := { s with dataout := [], input := [], flushes := [] }

theorem visible_eq_iff (s u : State) : s.visible = u.visible ↔ s.cfg = u.cfg ∧ statusOutputs s = statusOutputs u := by
  simp only [State.visible, statusOutputs, State.mk.injEq, StatusOutputs.mk.injEq]
  tauto

theorem append_visible (s : State) (o : Byte) : (append s o).visible = (append s.visible o).visible := by
  simp only [append, apply_ite State.visible]; rfl

theorem appendAll_visible (s : State) (out : List Byte) :
    (appendAll s out).visible = (appendAll s.visible out).visible := by
  induction out generalizing s with
  | nil => rfl
  | cons o out ih => rw [appendAll_cons, appendAll_cons, ih, append_visible, ← ih]

theorem nextState_visible (s : State) : (nextState s).visible = nextState s.visible := by
  simp only [nextState, apply_ite State.visible]; rfl

theorem searchStep_visible (bit : Bool) (s : State) : (searchStep bit s).visible = searchStep bit s.visible := by
  simp only [searchStep, apply_ite State.visible]; rfl

theorem matchSync_visible (b : Byte) (s : State) : (matchSync b s).visible = matchSync b s.visible := rfl

theorem completeByte_visible (s : State) : (completeByte s).visible = (completeByte s.visible).visible := by
  simp only [completeByte, nextState_visible, matchSync_visible]
  rw [appendAll_visible]; rfl

theorem assembleStep_visible (bit : Bool) (s : State) :
    (assembleStep bit s).visible = (assembleStep bit s.visible).visible := by
  simp only [assembleStep, apply_ite State.visible]
  rw [completeByte_visible]; rfl

theorem sampleNext_visible (iRaw qRaw : Half) (s : State) :
    (sampleNext iRaw qRaw s).visible = (sampleNext iRaw qRaw s.visible).visible := by
  simp only [sampleNext, apply_ite State.visible, searchStep_visible]
  rw [assembleStep_visible]; rfl

/-- The machine of the status outputs: what an operation that answers makes of the visible part (`reserved3` never
answers). -/
def visibleNext : Instr → State → State
  | .nop, s => s
  | .sample iRaw qRaw, s => (sampleNext iRaw qRaw s).visible
  | .scanEnd, s => s.clearScan
  | .reserved3, s => s

theorem exec_next_visible {i : Instr} {s t : State} (h : exec i s = .next t) : t.visible = visibleNext i s.visible := by
  rcases exec_next_cases h with ⟨rfl, rfl⟩ | ⟨iRaw, qRaw, rfl, rfl⟩ | ⟨rfl, bytes, -, rfl⟩
  · rfl
  · exact sampleNext_visible iRaw qRaw s
  · rfl

end Sys2Proof.Machine

namespace Sys2Proof

open Sys2Proof.Machine

/-- Settles O31: a reset establishes the invariants, and a word runs only under a legal configuration. -/
theorem stepKeepsInvariants : Obligations.StepKeepsInvariants := by
  intro s t hs h
  obtain ⟨x, rest, -, ⟨-, rfl⟩ | ⟨-, -, hl, hexec⟩⟩ := step_next_cases h
  · exact State.resetWith_inv _ _ _
  · exact exec_keeps_inv (hs.setInput rest) hl hexec

/-- Settles O21, by the phase of the state before the sample. -/
theorem sequencingTransitions : Obligations.SequencingTransitions := by
  refine ⟨?nop, ?scanEnd, ?sample⟩
  case nop =>
    intro s t h
    cases h
    rfl
  case scanEnd =>
    intro s t h
    rcases exec_scanEnd_cases s with ⟨bytes, -, e⟩ | ⟨f, -, e⟩ <;> rw [e] at h <;> cases h
    rfl
  case sample =>
    intro iRaw qRaw s hs hl
    refine ⟨_, exec_sample iRaw qRaw s, ?_⟩
    have hbaseline := hs.setAmplitudeLast (baseline s.cfg (sampleAmplitude iRaw qRaw))
    rcases sampleNext_cases iRaw qRaw s with ⟨hr, -⟩ | ⟨hr, e⟩
    · rw [sequencing_of_searching hr]
      exact sampleNext_sequencing_of_searching hs hl hr iRaw qRaw
    · rw [e]
      cases hi : s.ignoreHeaders with
      | false =>
        rw [sequencing_of_normal hr hi]
        exact assembleStep_sequencing_of_normal hbaseline hl hr _ hi
      | true =>
        rw [sequencing_of_ignoring hr hi]
        exact assembleStep_sequencing_of_ignoring hbaseline hl hr _ hi

/-- Settles O36: the visible part evolves by a function of itself, `visibleNext`. -/
theorem statusOutputsIgnoreBuffer : Obligations.StatusOutputsIgnoreBuffer := by
  intro i s u t v hcfg hstatus ht hv
  have hvisible : s.visible = u.visible := (visible_eq_iff s u).mpr ⟨hcfg, hstatus⟩
  have hnext : t.visible = v.visible := by rw [exec_next_visible ht, exec_next_visible hv, hvisible]
  exact ((visible_eq_iff t v).mp hnext).2

end Sys2Proof

/-!
PROOFS about the memory (20_memory.md): what a flush reads after appends and scan ends, that no run can observe the
cells it does not read, and that a byte on the line reaches it.
-/

namespace Sys2Proof.Machine

/-! ### What a flush would read -/

/-- Everything `contents` can answer when it answers. -/
theorem contents_ok_iff (s : State) (bytes : List Byte) : contents s = .ok bytes ↔ bytes.length = s.dataoutIndex ∧
    ∀ k (h : k < bytes.length), k < s.cfg.dataoutCapacity ∧ memLookup s.dataout k = some bytes[k] :=
  readCells_ok_iff s.cfg s.dataout s.dataoutIndex bytes

theorem contents_total {s : State} (hs : s.Inv) : ∃ bytes, contents s = .ok bytes :=
  readCells_total hs.indexInside hs.cellsWritten

/-- The appended bytes that find room follow the ones already there (42_byte_assembler.md R166, R173). -/
theorem contents_appendAll {s : State} {bytes : List Byte} (hb : contents s = .ok bytes)
    (hi : s.dataoutIndex ≤ s.cfg.dataoutCapacity) (out : List Byte) :
    contents (appendAll s out) = .ok ((bytes ++ out).take s.cfg.dataoutCapacity) := by
  obtain ⟨hlen, hcell⟩ := (contents_ok_iff s bytes).mp hb
  refine (contents_ok_iff _ _).mpr ⟨?length, fun k hk => ?cell⟩
  case length => simp [appendAll_dataoutIndex hi, hlen]
  case cell =>
    rw [List.length_take, List.length_append] at hk
    rw [appendAll_cfg, appendAll_memLookup, List.getElem_take]
    refine ⟨by omega, ?_⟩
    by_cases hold : k < bytes.length
    · rw [if_neg (by omega), List.getElem_append_left hold]
      exact (hcell k hold).2
    · rw [if_pos (by omega), List.getElem_append_right (by omega), ← hlen]
      exact List.getElem?_eq_getElem (by omega)

/-! ### `SCAN_END` at the edges of the buffer -/

/-- After the clears a flush reads no cell, whatever cells stay listed, and its record is empty (43_scan_control.md R202
to R204). -/
theorem exec_scanEnd_clearScan (s : State) : exec .scanEnd s.clearScan = .next (s.clearScan.emitRecord
    { emit := false, n := 0, bytes := [], syncFound := false, overflow := false }) :=
  exec_scanEnd_of_ok (bytes := []) rfl

end Sys2Proof.Machine

namespace Sys2Proof

open Sys2Proof.Machine

/-- Settles O24. -/
theorem appendsExtendContents : Obligations.AppendsExtendContents :=
  fun _ _ out hb hi => contents_appendAll hb hi out

/-- Settles O28: the first `SCAN_END` leaves a buffer that counts no byte. -/
theorem secondScanEndIsEmpty : Obligations.SecondScanEndIsEmpty := by
  intro s hs
  obtain ⟨bytes, hbytes⟩ := contents_total hs
  refine ⟨_, flushRecord s bytes, exec_scanEnd_of_ok hbytes, rfl, ?_⟩
  rw [exec_scanEnd_clearScan]
  simp [State.emitRecord]

/-- Settles O29: a `SCAN_END` that answers has read every cell it counts. -/
theorem scanEndFaultsOnMissingCell : Obligations.ScanEndFaultsOnMissingCell := by
  rintro s ⟨k, hk, hmissing⟩
  rcases exec_scanEnd_cases s with ⟨bytes, hbytes, -⟩ | ⟨f, -, hfault⟩
  · obtain ⟨hlen, hcell⟩ := (contents_ok_iff s bytes).mp hbytes
    obtain ⟨hinside, hwritten⟩ := hcell k (hlen ▸ hk)
    rcases hmissing with houtside | hunwritten
    · exact absurd hinside (Nat.not_lt.mpr houtside)
    · rw [hunwritten] at hwritten
      cases hwritten
  · exact ⟨f, hfault⟩

end Sys2Proof

namespace Sys2Proof.Machine

/-! ### What a sample delivers to the buffer -/

theorem append_setAmplitudeLast (s : State) (v : Half) (o : Byte) :
    append (s.setAmplitudeLast v) o = (append s o).setAmplitudeLast v := by
  rcases append_cases s o with ⟨h, e⟩ | ⟨h, e⟩ <;> rw [e]
  · exact if_pos h
  · exact if_neg (Nat.not_lt.mpr h)

theorem appendAll_setAmplitudeLast (s : State) (v : Half) (out : List Byte) :
    appendAll (s.setAmplitudeLast v) out = (appendAll s out).setAmplitudeLast v := by
  induction out generalizing s with
  | nil => rfl
  | cons o out ih => rw [appendAll_cons, append_setAmplitudeLast, ih]; rfl

/-- The bytes a sample appends: those of its byte if it is the last of a slot, else none (42_byte_assembler.md R161,
R163). -/
def sampleOutput (iRaw qRaw : Half) (s : State) : List Byte :=
  if s.isReadingHeader = false ∧ (s.bitIndex + 1).toNat = bitsNeeded s then
    escape s.cfg (shiftByte s.tempByte (sampleBit iRaw qRaw s))
  else []

/-- Everything a sample can do to the buffer: the appends of its output. -/
theorem sampleNext_buffer (iRaw qRaw : Half) (s : State) :
    (sampleNext iRaw qRaw s).dataout = (appendAll s (sampleOutput iRaw qRaw s)).dataout ∧
    (sampleNext iRaw qRaw s).dataoutIndex = (appendAll s (sampleOutput iRaw qRaw s)).dataoutIndex := by
  unfold sampleOutput
  rcases sampleNext_cases iRaw qRaw s with ⟨hr, e⟩ | ⟨hr, e⟩ <;> rw [e]
  · rw [if_neg (by simp [hr])]
    rcases searchStep_cases (sampleBit iRaw qRaw s) (s.setAmplitudeLast (baseline s.cfg (sampleAmplitude iRaw qRaw)))
      with ⟨-, e⟩ | ⟨-, -, e⟩ | ⟨-, -, e⟩ <;> rw [e] <;> exact ⟨rfl, rfl⟩
  · rcases assembleStep_cases (sampleBit iRaw qRaw s) (s.setAmplitudeLast (baseline s.cfg (sampleAmplitude iRaw qRaw)))
      with ⟨hlast, e⟩ | ⟨hlast, e⟩ <;> rw [e]
    · obtain ⟨-, -, hdataout, hindex, -⟩ := completeByte_fields ((s.setAmplitudeLast
        (baseline s.cfg (sampleAmplitude iRaw qRaw))).setSlot (shiftByte s.tempByte (sampleBit iRaw qRaw s))
        (s.bitIndex + 1))
      rw [appendAll_setSlot, appendAll_setAmplitudeLast] at hdataout hindex
      rw [if_pos ⟨hr, hlast⟩]
      exact ⟨hdataout, hindex⟩
    · rw [if_neg fun h => hlast h.2]
      exact ⟨rfl, rfl⟩

/-- A flush after a sample reads what it would read after the appends of its output. -/
theorem contents_sampleNext (iRaw qRaw : Half) (s : State) :
    contents (sampleNext iRaw qRaw s) = contents (appendAll s (sampleOutput iRaw qRaw s)) := by
  obtain ⟨hdataout, hindex⟩ := sampleNext_buffer iRaw qRaw s
  rw [contents, contents, sampleNext_cfg, appendAll_cfg, hdataout, hindex]

/-! ### The cells no flush reads (R63) -/

/-- The relation, by the visible part and the fields beside it. -/
theorem equalButDeadCells_iff (s u : State) : EqualButDeadCells s u ↔
    s.visible = u.visible ∧ s.input = u.input ∧ s.flushes = u.flushes ∧
      ∀ k < s.dataoutIndex, memLookup u.dataout k = memLookup s.dataout k := by
  constructor
  · rintro ⟨hrest, hlive⟩
    exact ⟨by rw [hrest]; rfl, by rw [hrest], by rw [hrest], hlive⟩
  · rintro ⟨hvisible, hinput, hflushes, hlive⟩
    refine ⟨?_, hlive⟩
    cases s
    cases u
    simp_all [State.visible]

theorem EqualButDeadCells.refl (s : State) : EqualButDeadCells s s := ⟨rfl, fun _ _ => rfl⟩

/-- Appends to two buffers with the same live cells leave the same live cells: each writes the cell it makes live. -/
theorem appendAll_live {s u : State} (hindex : u.dataoutIndex = s.dataoutIndex)
    (hcap : u.cfg.dataoutCapacity = s.cfg.dataoutCapacity)
    (hlive : ∀ k < s.dataoutIndex, memLookup u.dataout k = memLookup s.dataout k) (out : List Byte) :
    ∀ k < (appendAll s out).dataoutIndex,
      memLookup (appendAll u out).dataout k = memLookup (appendAll s out).dataout k := by
  induction out generalizing s u with
  | nil => exact hlive
  | cons o out ih =>
    rw [appendAll_cons, appendAll_cons]
    rcases append_cases s o with ⟨hs, es⟩ | ⟨hs, es⟩ <;> rcases append_cases u o with ⟨hu, eu⟩ | ⟨hu, eu⟩ <;>
      rw [es, eu]
    · refine ih (by simp [hindex]) hcap fun k hk => ?_
      rw [State.storeByte_dataout, State.storeByte_dataout, hindex]
      by_cases hnew : k = s.dataoutIndex
      · rw [hnew, memLookup_memWrite_self, memLookup_memWrite_self]
      · rw [memLookup_memWrite_of_ne _ _ hnew, memLookup_memWrite_of_ne _ _ hnew]
        exact hlive k (by rw [State.storeByte_dataoutIndex] at hk; omega)
    · omega
    · omega
    · exact ih hindex hcap hlive

section
variable {s u : State} (h : EqualButDeadCells s u)
include h

theorem EqualButDeadCells.flushes : u.flushes = s.flushes := by rw [h.rest]

theorem EqualButDeadCells.contents : contents u = contents s := by
  have hcfg : u.cfg = s.cfg := by rw [h.rest]
  have hindex : u.dataoutIndex = s.dataoutIndex := by rw [h.rest]
  rw [Machine.contents, Machine.contents, hcfg, hindex]
  exact readCells_congr rfl h.live

theorem EqualButDeadCells.setInput (xs : List InputStep) : EqualButDeadCells (s.setInput xs) (u.setInput xs) :=
  ⟨congrArg (State.setInput · xs) h.rest, h.live⟩

theorem EqualButDeadCells.sampleNext (iRaw qRaw : Half) :
    EqualButDeadCells (sampleNext iRaw qRaw s) (sampleNext iRaw qRaw u) := by
  obtain ⟨hvisible, hinput, hflushes, hlive⟩ := (equalButDeadCells_iff s u).mp h
  have hout : sampleOutput iRaw qRaw u = sampleOutput iRaw qRaw s := by rw [h.rest]; rfl
  obtain ⟨hsdataout, hsindex⟩ := sampleNext_buffer iRaw qRaw s
  obtain ⟨hudataout, -⟩ := sampleNext_buffer iRaw qRaw u
  refine (equalButDeadCells_iff _ _).mpr ⟨?_, by simpa using hinput, by simpa using hflushes, ?_⟩
  · rw [sampleNext_visible, hvisible, ← sampleNext_visible]
  · rw [hsdataout, hsindex, hudataout, hout]
    exact appendAll_live (by rw [h.rest]) (by rw [h.rest]) hlive _

/-- After the clears every cell is dead. -/
theorem EqualButDeadCells.scanEnd (bytes : List Byte) :
    EqualButDeadCells ((s.emitRecord (flushRecord s bytes)).clearScan) ((u.emitRecord (flushRecord u bytes)).clearScan) :=
  ⟨by rw [h.rest]; rfl, nofun⟩

theorem EqualButDeadCells.exec {i : Instr} {t : State} (ht : exec i s = .next t) :
    ∃ v, exec i u = .next v ∧ EqualButDeadCells t v := by
  rcases exec_next_cases ht with ⟨rfl, rfl⟩ | ⟨iRaw, qRaw, rfl, rfl⟩ | ⟨rfl, bytes, hbytes, rfl⟩
  · exact ⟨u, exec_nop u, h⟩
  · exact ⟨_, exec_sample iRaw qRaw u, h.sampleNext iRaw qRaw⟩
  · exact ⟨_, exec_scanEnd_of_ok (h.contents.trans hbytes), h.scanEnd bytes⟩

theorem EqualButDeadCells.step {t : State} (ht : step s = .next t) :
    ∃ v, step u = .next v ∧ EqualButDeadCells t v := by
  obtain ⟨x, rest, hinput, hstep⟩ := step_next_cases ht
  have hinput' : u.input = x :: rest := by rw [h.rest]; exact hinput
  have hcfg : u.cfg = s.cfg := by rw [h.rest]
  rcases hstep with ⟨hrst, rfl⟩ | ⟨hrst, hxcfg, hlegal, hexec⟩
  · refine ⟨_, step_of_rst hinput' hrst, ?_⟩
    rw [resetStep, resetStep, h.flushes]
    exact EqualButDeadCells.refl _
  · rw [step_of_word hinput' hrst (hxcfg.trans hcfg.symm) (hcfg ▸ hlegal)]
    exact (h.setInput rest).exec hexec

theorem EqualButDeadCells.runSteps {n : Nat} {t : State} (ht : runSteps n s = .next t) :
    ∃ v, runSteps n u = .next v ∧ EqualButDeadCells t v := by
  induction n generalizing s u with
  | zero => cases ht; exact ⟨u, runSteps_zero u, h⟩
  | succ n ih =>
    obtain ⟨s', hs', ht'⟩ := runSteps_succ_cases ht
    obtain ⟨u', hu', h'⟩ := h.step hs'
    rw [runSteps_succ_of_next n hu']
    exact ih h' ht'

end

end Sys2Proof.Machine

namespace Sys2Proof

open Sys2Proof.Machine

/-- Settles O35: the relation is kept by every step that answers, and it fixes the records and what a flush reads. -/
theorem deadCellsUnobservable : Obligations.DeadCellsUnobservable := by
  intro s u n t h ht
  obtain ⟨v, hv, htv⟩ := h.runSteps ht
  exact ⟨v, hv, htv, htv.flushes, htv.contents⟩

end Sys2Proof

namespace Sys2Proof.Machine

/-! ### The words of the line code (30_encoding.md R80, R92) -/

/-- The word of a `SAMPLE` presents it (R80). -/
theorem decode_encode_sample (iRaw qRaw : Half) : decode (encode (.sample iRaw qRaw)) = .sample iRaw qRaw := by
  have hword : (encode (.sample iRaw qRaw)).toNat = 2 ^ 32 + iRaw.toNat * 2 ^ 16 + qRaw.toNat :=
    Laws.OperandFields.sample iRaw qRaw
  have hi := iRaw.isLt
  have hq := qRaw.isLt
  have hfield (start len : Nat) : ((encode (.sample iRaw qRaw)).extractLsb' start len).toNat =
      (2 ^ 32 + iRaw.toNat * 2 ^ 16 + qRaw.toNat) / 2 ^ start % 2 ^ len := by
    rw [BitVec.extractLsb'_toNat, hword, Nat.shiftRight_eq_div_pow]
  have hcmd : (cmdField (encode (.sample iRaw qRaw))).toNat = 1 := (hfield 32 2).trans (by omega)
  have hiField : iRawField (encode (.sample iRaw qRaw)) = iRaw :=
    BitVec.toNat_inj.mp ((hfield 16 16).trans (by omega))
  have hqField : qRawField (encode (.sample iRaw qRaw)) = qRaw :=
    BitVec.toNat_inj.mp ((hfield 0 16).trans (by omega))
  simp only [decode, hcmd, hiField, hqField]

/-- A step that takes the word of a `SAMPLE`, presented under the legal configuration in force. -/
theorem step_of_sample {s : State} {iRaw qRaw : Half} {xs : List InputStep} (hl : configLegal s.cfg = true)
    (hinput : s.input = wordStep s.cfg (encode (.sample iRaw qRaw)) :: xs) :
    step s = .next (sampleNext iRaw qRaw (s.setInput xs)) := by
  rw [step_of_word hinput rfl rfl hl]
  simp only [wordStep, decode_encode_sample, exec_sample]

/-- A line-code bit is a sample of the test amplitude: negated where the bit is 0, and once more on an inverted link
(R85, R88). -/
theorem txBit_linkAmplitude (a : Nat) (inv b : Bool) :
    txBit (linkAmplitude a inv) b = .sample (linkAmplitude a (b == inv)) 0 := by
  cases b <;> cases inv <;> simp [txBit, linkAmplitude]

/-- A step that takes a line-code bit from a link. -/
theorem step_of_txBit {s : State} {a : Nat} {inv b : Bool} {xs : List InputStep} (hl : configLegal s.cfg = true)
    (hinput : s.input = wordStep s.cfg (encode (txBit (linkAmplitude a inv) b)) :: xs) :
    step s = .next (sampleNext (linkAmplitude a (b == inv)) 0 (s.setInput xs)) := by
  rw [txBit_linkAmplitude] at hinput
  exact step_of_sample hl hinput

/-! ### The baseline of a line-code sample (40_bit_synchronizer.md R115, R116, R121) -/

theorem sampleAmplitude_linkAmplitude_toInt {a : Nat} (ha : a ≤ 2047) (inv : Bool) (qRaw : Half) :
    (sampleAmplitude (linkAmplitude a inv) qRaw).toInt = if inv then -(16 * a : Int) else 16 * a := by
  have hshift : sampleAmplitude (linkAmplitude a inv) qRaw = linkAmplitude a inv <<< 4 := rfl
  rw [hshift, BitVec.toInt_shiftLeft, Int.bmod_def]
  cases inv <;> simp [linkAmplitude, Nat.shiftLeft_eq] <;> omega

/-- A share of at most `q` in `x`, on either side of zero. -/
theorem mul_share_bounds (x : Int) {p q : Nat} (h : p ≤ q) :
    0 ≤ x ∧ 0 ≤ x * p ∧ x * p ≤ x * q ∨ x ≤ 0 ∧ x * q ≤ x * p ∧ x * p ≤ 0 := by
  rcases le_total 0 x with hx | hx
  · exact .inl ⟨hx, by positivity, by gcongr⟩
  · exact .inr ⟨hx, mul_le_mul_of_nonpos_left (by exact_mod_cast h) hx,
      mul_nonpos_of_nonpos_of_nonneg hx (by positivity)⟩

/-- The exact quotient fits the register (R116). -/
theorem baseline_toInt {c : Config} (hp : c.percentLast ≤ 100) (amp : Half) :
    (baseline c amp).toInt = truncdiv (amp.toInt * c.percentLast) 100 := by
  have hlow := BitVec.le_toInt amp
  have hhigh := BitVec.toInt_lt (x := amp)
  have hprod := mul_share_bounds amp.toInt hp
  rw [baseline, BitVec.toInt_ofInt]
  apply Int.bmod_eq_of_le <;> simp only [truncdiv] <;> split <;> omega

/-- Every line-code sample leaves a baseline inside the test amplitude (R121): at most 99 percent of it, and the
amplitude is not zero. -/
theorem signDecides_sampleNext {a : Nat} (ha : 1 ≤ a) (ha' : a ≤ 2047) {s : State} (hp : s.cfg.percentLast < 100)
    (inv : Bool) (qRaw : Half) : signDecides a (sampleNext (linkAmplitude a inv) qRaw s) := by
  have hshare := mul_share_bounds (sampleAmplitude (linkAmplitude a inv) qRaw).toInt
    (show s.cfg.percentLast ≤ 99 from Nat.le_of_lt_succ hp)
  rw [signDecides, sampleNext_amplitudeLast, baseline_toInt hp.le]
  rw [sampleAmplitude_linkAmplitude_toInt ha'] at hshare ⊢
  cases inv <;> simp only [truncdiv, Bool.false_eq_true, if_true, if_false] at hshare ⊢ <;> split <;> omega

/-- A line-code sample is classified by its sign (R121). -/
theorem classify_linkAmplitude {a : Nat} (ha : a ≤ 2047) {s : State} (hs : signDecides a s) (inv : Bool) (qRaw : Half) :
    classify (sampleAmplitude (linkAmplitude a inv) qRaw) s.amplitudeLast = !inv := by
  obtain ⟨hlow, hhigh⟩ := hs
  rw [classify, sampleAmplitude_linkAmplitude_toInt ha]
  cases inv <;> simp <;> omega

theorem sampleBit_linkAmplitude {a : Nat} (ha : a ≤ 2047) {s : State} (hs : signDecides a s)
    (hr : s.isReadingHeader = false) (b : Bool) (qRaw : Half) :
    sampleBit (linkAmplitude a (b == s.isSignalInverted)) qRaw s = b := by
  rw [sampleBit, classify_linkAmplitude ha hs, applyPolarity, hr]
  cases b <;> cases s.isSignalInverted <;> rfl

/-! ### The bits of a byte (42_byte_assembler.md R161) -/

theorem shiftByte_toNat (t : Byte) (bit : Bool) : (shiftByte t bit).toNat = (2 * t.toNat + bit.toNat) % 2 ^ 8 :=
  shiftIn_toNat (by decide) t bit

/-- The first `k` bits of a byte, most significant first, shifted in one by one, push out as many bits of what was
there before. -/
theorem foldl_shiftByte_getMsbD_toNat (t v : Byte) {k : Nat} (hk : k ≤ 8) :
    (((List.range k).map v.getMsbD).foldl shiftByte t).toNat = (t.toNat * 2 ^ k + v.toNat / 2 ^ (8 - k)) % 2 ^ 8 := by
  induction k with
  | zero =>
    have ht := t.isLt
    have hv := v.isLt
    rw [List.range_zero, List.map_nil, List.foldl_nil]
    omega
  | succ k ih =>
    have hbit : (v.getMsbD k).toNat = v.toNat / 2 ^ (7 - k) % 2 := by
      rw [← Nat.toNat_testBit, BitVec.testBit_toNat, BitVec.getMsbD_eq_getLsbD]
      simp [show k < 8 by omega]
    have hhalf : v.toNat / 2 ^ (8 - k) = v.toNat / 2 ^ (7 - k) / 2 := by
      rw [Nat.div_div_eq_div_mul, ← Nat.pow_succ, show (7 - k).succ = 8 - k by omega]
    rw [List.range_succ, List.map_append, List.foldl_append, List.map_cons, List.map_nil, List.foldl_cons,
      List.foldl_nil, shiftByte_toNat, ih (by omega), hbit, hhalf, show 8 - (k + 1) = 7 - k by omega,
      Nat.pow_succ 2 k, ← Nat.mul_assoc]
    omega

/-- Eight bits replace the accumulator, whatever it held. -/
theorem foldl_shiftByte_byte (t v : Byte) : ((List.range 8).map v.getMsbD).foldl shiftByte t = v := by
  have hv := v.isLt
  rw [← BitVec.toNat_inj, foldl_shiftByte_getMsbD_toNat t v le_rfl]
  omega

/-! ### A run over the line-code bits of a slot -/

theorem stimulus_cons (c : Config) (i : Instr) (is : List Instr) :
    stimulus c (i :: is) = wordStep c (encode i) :: stimulus c is := rfl

theorem stimulus_append (c : Config) (is js : List Instr) : stimulus c (is ++ js) = stimulus c is ++ stimulus c js :=
  List.map_append

theorem sampleNext_of_locked {s : State} (hr : s.isReadingHeader = false) (iRaw qRaw : Half) : sampleNext iRaw qRaw s =
    assembleStep (sampleBit iRaw qRaw s) (s.setAmplitudeLast (baseline s.cfg (sampleAmplitude iRaw qRaw))) := by
  rw [sampleNext, if_neg (by simp [hr])]

/-- A sample that does not end the slot shifts its bit in (42_byte_assembler.md R161). -/
theorem sampleNext_inside_slot {s : State} (hs : s.Inv) (hl : configLegal s.cfg = true) (hr : s.isReadingHeader = false)
    (hopen : s.bitIndex.toNat + 1 < bitsNeeded s) (iRaw qRaw : Half) :
    sampleNext iRaw qRaw s = (s.setAmplitudeLast (baseline s.cfg (sampleAmplitude iRaw qRaw))).setSlot
      (shiftByte s.tempByte (sampleBit iRaw qRaw s)) (s.bitIndex + 1) := by
  have hbaseline := hs.setAmplitudeLast (baseline s.cfg (sampleAmplitude iRaw qRaw))
  rw [sampleNext_of_locked hr]
  rcases assembleStep_openSlot_cases hbaseline hl (sampleBit iRaw qRaw s) with ⟨-, e⟩ | ⟨hlast, -⟩
  · exact e
  · exact absurd hlast (Nat.ne_of_lt hopen)

/-- While LOCKED no sample touches the polarity (41_header_detector.md R146). -/
theorem sampleNext_isSignalInverted {s : State} (hr : s.isReadingHeader = false) (iRaw qRaw : Half) :
    (sampleNext iRaw qRaw s).isSignalInverted = s.isSignalInverted := by
  rw [sampleNext_of_locked hr]
  rcases assembleStep_cases (sampleBit iRaw qRaw s) (s.setAmplitudeLast (baseline s.cfg (sampleAmplitude iRaw qRaw)))
    with ⟨-, e⟩ | ⟨-, e⟩ <;> rw [e]
  · obtain ⟨-, -, hinv, -⟩ := completeByte_frame ((s.setAmplitudeLast
      (baseline s.cfg (sampleAmplitude iRaw qRaw))).setSlot (shiftByte s.tempByte (sampleBit iRaw qRaw s)) (s.bitIndex + 1))
    exact hinv
  · rfl

section
variable {a : Nat} (ha : 1 ≤ a) (ha' : a ≤ 2047) {s : State} {xs : List InputStep} (hs : s.Inv)
  (hl : configLegal s.cfg = true) (hp : s.cfg.percentLast < 100) (hsign : signDecides a s)
  (hr : s.isReadingHeader = false)
include ha ha' hs hl hp hsign hr

/-- The samples of bits that do not end the slot shift them in, one by one, and change nothing else but the baseline
(42_byte_assembler.md R161). -/
theorem runSteps_lineBits {bits : List Bool} (hopen : s.bitIndex.toNat + bits.length < bitsNeeded s)
    (hinput : s.input = stimulus s.cfg (bits.map (txBit (linkAmplitude a s.isSignalInverted))) ++ xs) :
    ∃ t, runSteps bits.length s = .next t ∧ t.Inv ∧ signDecides a t ∧
      t.bitIndex.toNat = s.bitIndex.toNat + bits.length ∧ t = { s with
        amplitudeLast := t.amplitudeLast, bitIndex := t.bitIndex, tempByte := bits.foldl shiftByte s.tempByte,
        input := xs } := by
  induction bits generalizing s with
  | nil => exact ⟨s, rfl, hs, hsign, rfl, by rw [show xs = s.input from hinput.symm]; rfl⟩
  | cons b bits ih =>
    rw [List.map_cons, stimulus_cons, List.cons_append] at hinput
    rw [List.length_cons] at hopen ⊢
    set tail := stimulus s.cfg (bits.map (txBit (linkAmplitude a s.isSignalInverted))) ++ xs
    have hfirst := step_of_txBit hl hinput
    have hs' := (hs.setInput tail).sampleNext hl (linkAmplitude a (b == s.isSignalInverted)) 0
    have hsign' := signDecides_sampleNext ha ha' (s := s.setInput tail) hp (b == s.isSignalInverted) 0
    have hbit : sampleBit (linkAmplitude a (b == s.isSignalInverted)) 0 (s.setInput tail) = b :=
      sampleBit_linkAmplitude ha' hsign hr b 0
    have hnext := sampleNext_inside_slot (hs.setInput tail) hl hr (show s.bitIndex.toNat + 1 < bitsNeeded s by omega)
      (linkAmplitude a (b == s.isSignalInverted)) 0
    rw [hbit] at hnext
    rw [hnext] at hfirst hs' hsign'
    have hindex : (s.bitIndex + 1).toNat = s.bitIndex.toNat + 1 := bitIndex_succ_toNat hs hl
    obtain ⟨t, hrun, ht, htsign, htindex, e⟩ := ih hs' hl hp hsign' hr
      (show (s.bitIndex + 1).toNat + bits.length < bitsNeeded s by omega) rfl
    rw [State.setSlot_bitIndex, State.setInput_bitIndex, hindex] at htindex
    exact ⟨t, (runSteps_succ_of_next _ hfirst).trans hrun, ht, htsign, by omega, e⟩

/-- The sample of the bit that ends a slot delivers the byte (42_byte_assembler.md R163, R166). -/
theorem step_lastLineBit {b : Bool} {bytes : List Byte} (hlast : s.bitIndex.toNat + 1 = bitsNeeded s)
    (hbytes : contents s = .ok bytes)
    (hinput : s.input = wordStep s.cfg (encode (txBit (linkAmplitude a s.isSignalInverted) b)) :: xs) :
    ∃ t, step s = .next t ∧ t.input = xs ∧ signDecides a t ∧ t.isSignalInverted = s.isSignalInverted ∧
      t.flushes = s.flushes ∧
      contents t = .ok ((bytes ++ escape s.cfg (shiftByte s.tempByte b)).take s.cfg.dataoutCapacity) := by
  have hout : sampleOutput (linkAmplitude a (b == s.isSignalInverted)) 0 (s.setInput xs) =
      escape s.cfg (shiftByte s.tempByte b) := by
    have hbit : sampleBit (linkAmplitude a (b == s.isSignalInverted)) 0 (s.setInput xs) = b :=
      sampleBit_linkAmplitude ha' hsign hr b 0
    rw [sampleOutput, if_pos ⟨hr, (bitIndex_succ_toNat hs hl).trans hlast⟩, hbit]
    rfl
  refine ⟨_, step_of_txBit hl hinput, sampleNext_input _ _ _,
    signDecides_sampleNext (s := s.setInput xs) ha ha' hp _ _,
    sampleNext_isSignalInverted (s := s.setInput xs) hr _ _, sampleNext_flushes _ _ _, ?_⟩
  rw [contents_sampleNext, hout]
  exact contents_appendAll (s := s.setInput xs) hbytes hs.indexInside _

end

/-! ### A byte on the line (R64, R161 to R166) -/

/-- The high seven bits of a byte, which leave its slot open, and the last one, which ends it. -/
theorem txByte_eq (a : Half) (v : Byte) :
    txByte a v = ((List.range 7).map v.getMsbD).map (txBit a) ++ [txBit a (v.getMsbD 7)] := by
  rw [txByte, List.range_succ, List.map_append, List.map_map]; rfl

theorem shiftByte_foldl_last (t v : Byte) :
    shiftByte (((List.range 7).map v.getMsbD).foldl shiftByte t) (v.getMsbD 7) = v := by
  have h := foldl_shiftByte_byte t v
  rwa [List.range_succ, List.map_append, List.foldl_append] at h

end Sys2Proof.Machine

namespace Sys2Proof

open Sys2Proof.Machine

/-- Settles O42: seven samples shift the high bits of the byte in, and the eighth delivers the byte. -/
theorem transmittedByteRecovered : Obligations.TransmittedByteRecovered := by
  intro s a v bytes rest hs hl hp ha ha' hsign hr hi hk hbytes hinput
  have hneeded := bitsNeeded_of_normal hi
  have hstart : s.bitIndex.toNat = 0 := by rw [hk]; rfl
  rw [txByte_eq, stimulus_append, List.append_assoc] at hinput
  obtain ⟨t, hrun, ht, htsign, htindex, e⟩ :=
    runSteps_lineBits ha ha' hs hl hp hsign hr (by simp [hstart, hneeded]) hinput
  rw [hstart, List.length_map, List.length_range] at htindex
  have hcfg : t.cfg = s.cfg := by rw [e]
  have hinv : t.isSignalInverted = s.isSignalInverted := by rw [e]
  have hflushes : t.flushes = s.flushes := by rw [e]
  have hlocked : t.isReadingHeader = false := by rw [e]; exact hr
  have hnormal : t.ignoreHeaders = false := by rw [e]; exact hi
  have hbefore : contents t = .ok bytes := by rw [e]; exact hbytes
  have hbyte : shiftByte t.tempByte (v.getMsbD 7) = v := by rw [e]; exact shiftByte_foldl_last s.tempByte v
  have hcoming : t.input = wordStep t.cfg (encode (txBit (linkAmplitude a t.isSignalInverted) (v.getMsbD 7))) ::
      rest := by
    rw [e]; rfl
  have hlast : t.bitIndex.toNat + 1 = bitsNeeded t := by rw [htindex, bitsNeeded_of_normal hnormal]
  obtain ⟨w, hstep, hwinput, hwsign, hwinv, hwflushes, hwbytes⟩ :=
    step_lastLineBit ha ha' ht (hcfg ▸ hl) (hcfg ▸ hp) htsign hlocked hlast hbefore hcoming
  rw [hbyte, hcfg] at hwbytes
  exact ⟨w, (runSteps_add 7 1 hrun).trans (runSteps_succ_of_next 0 hstep), hwinput, hwsign, hwinv.trans hinv,
    hwflushes.trans hflushes, hwbytes⟩

end Sys2Proof

/-!
PROOFS about the encoding (30_encoding.md): the input word and its fields, what a step takes from the input, and the
legal configurations.
-/

namespace Sys2Proof

/-! ### The fields of the input word (R80) -/

theorem cmdField_toNat (w : InputWord) : (cmdField w).toNat = w.toNat / 2 ^ 32 := by
  have hw := w.isLt
  rw [cmdField, BitVec.extractLsb'_toNat, Nat.shiftRight_eq_div_pow]
  omega

theorem iRawField_eq (w : InputWord) : iRawField w = BitVec.ofNat 16 (w.toNat / 2 ^ 16 % 2 ^ 16) := by
  rw [iRawField, ← BitVec.toNat_inj, BitVec.extractLsb'_toNat, Nat.shiftRight_eq_div_pow, BitVec.toNat_ofNat,
    Nat.mod_mod]

theorem qRawField_eq (w : InputWord) : qRawField w = BitVec.ofNat 16 (w.toNat % 2 ^ 16) := by
  rw [qRawField, ← BitVec.toNat_inj, BitVec.extractLsb'_toNat, Nat.shiftRight_zero, BitVec.toNat_ofNat, Nat.mod_mod]

/-- `cmd` has two bits. -/
theorem cmd_cases (w : InputWord) :
    w.toNat / 2 ^ 32 = 0 ∨ w.toNat / 2 ^ 32 = 1 ∨ w.toNat / 2 ^ 32 = 2 ∨ w.toNat / 2 ^ 32 = 3 := by
  have hw := w.isLt
  omega

/-! ### The operation of a word (R81) -/

section
variable {w : InputWord}

theorem decode_of_cmd_nop (h : w.toNat / 2 ^ 32 = 0) : decode w = .nop := by
  simp only [decode, cmdField_toNat, h]

theorem decode_of_cmd_sample (h : w.toNat / 2 ^ 32 = 1) : decode w =
    .sample (BitVec.ofNat 16 (w.toNat / 2 ^ 16 % 2 ^ 16)) (BitVec.ofNat 16 (w.toNat % 2 ^ 16)) := by
  simp only [decode, cmdField_toNat, h, iRawField_eq, qRawField_eq]

theorem decode_of_cmd_scanEnd (h : w.toNat / 2 ^ 32 = 2) : decode w = .scanEnd := by
  simp only [decode, cmdField_toNat, h]

theorem decode_of_cmd_reserved3 (h : w.toNat / 2 ^ 32 = 3) : decode w = .reserved3 := by
  simp only [decode, cmdField_toNat, h]

end

theorem decode_encode (i : Instr) : decode (encode i) = i := by
  cases i with
  | nop => decide
  | sample iRaw qRaw => exact Machine.decode_encode_sample iRaw qRaw
  | scanEnd => decide
  | reserved3 => decide

/-- The canonical spelling of a word: the operand fields stay for a `SAMPLE` and are zero for the other operations,
which ignore them. -/
theorem encode_decode_toNat (w : InputWord) : (encode (decode w)).toNat =
    if w.toNat / 2 ^ 32 = 1 then w.toNat else w.toNat / 2 ^ 32 * 2 ^ 32 := by
  rcases cmd_cases w with h | h | h | h
  · rw [decode_of_cmd_nop h, h]; rfl
  · rw [decode_of_cmd_sample h,
      show (encode (.sample _ _)).toNat = _ from Laws.OperandFields.sample _ _, if_pos h, BitVec.toNat_ofNat,
      BitVec.toNat_ofNat]
    omega
  · rw [decode_of_cmd_scanEnd h, h]; rfl
  · rw [decode_of_cmd_reserved3 h, h]; rfl

/-- Settles O2. -/
theorem decodeEncodeAgree : Obligations.DecodeEncodeAgree := ⟨decode_encode, encode_decode_toNat⟩

/-- Settles O3: one value of `cmd` for each arm of the decoder. -/
theorem decodeReadsFieldsByPosition : Obligations.DecodeReadsFieldsByPosition := by
  intro w
  rcases cmd_cases w with h | h | h | h
  · rw [decode_of_cmd_nop h, if_pos h]
  · rw [decode_of_cmd_sample h, if_neg (by omega), if_pos h]
  · rw [decode_of_cmd_scanEnd h, if_neg (by omega), if_neg (by omega), if_pos h]
  · rw [decode_of_cmd_reserved3 h, if_neg (by omega), if_neg (by omega), if_neg (by omega)]

/-- Settles O1: nine evaluations of the decoder. -/
theorem specWordsDecode : Obligations.SpecWordsDecode := by
  unfold Obligations.SpecWordsDecode
  decide

end Sys2Proof

namespace Sys2Proof.Machine

/-! ### What a step makes of its word -/

/-- A word under an illegal configuration in force is refused before it is decoded (R93; log entry 4). -/
theorem step_of_illegal_cfg {s : State} {x : InputStep} {rest : List InputStep} (hinput : s.input = x :: rest)
    (hrst : x.rst = false) (hcfg : x.cfg = s.cfg) (hillegal : configLegal s.cfg = false) :
    step s = .refused .illegalConfiguration := by
  simp [step, fetch, hinput, hrst, hcfg, hillegal]

/-- The word of an operation, presented under the legal configuration in force, runs that operation (R91). -/
theorem step_of_encode {s : State} {i : Instr} {xs : List InputStep} (hl : configLegal s.cfg = true)
    (hinput : s.input = wordStep s.cfg (encode i) :: xs) : step s = exec i (s.setInput xs) := by
  rw [step_of_word hinput rfl rfl hl]
  simp only [wordStep, decode_encode]

/-! ### The reserved values of a configuration, check by check (R93) -/

section
variable (c : Config)

theorem widthLegal_eq_false_iff : widthLegal c = false ↔
    c.headerWidth ≠ 8 ∧ c.headerWidth ≠ 9 ∧ c.headerWidth ≠ 11 ∧ c.headerWidth ≠ 12 := by
  simp [widthLegal]

theorem headerLegal_eq_false_iff : headerLegal c = false ↔ 2 ^ c.headerWidth - 1 < c.header := by
  rw [headerLegal, decide_eq_false_iff_not, Nat.not_le, maskNat]

theorem percentLegal_eq_false_iff : percentLegal c = false ↔ 100 < c.percentLast := by
  simp [percentLegal]

theorem amplitudeLegal_eq_false_iff : amplitudeLegal c = false ↔ c.ampMode ≠ .iOnly ∨ c.noiseFloor ≠ 0 := by
  simp only [amplitudeLegal, Bool.and_eq_false_iff, decide_eq_false_iff_not]

theorem timingLegal_eq_false_iff : timingLegal c = false ↔
    c.ignoreSlotBits < 8 ∨ 31 < c.ignoreSlotBits ∨ 255 < c.timingInterval := by
  simp only [timingLegal, Bool.and_eq_false_iff, decide_eq_false_iff_not, Nat.not_le, or_assoc]

theorem capacityLegal_eq_false_iff : capacityLegal c = false ↔ c.dataoutCapacity < 1 := by
  simp only [capacityLegal, decide_eq_false_iff_not, Nat.not_le]

/-- The constraints of 00_scope.md R12 fail only while escape coding is on. -/
theorem escapeLegal_eq_false_iff : escapeLegal c = false ↔ c.escapeEnable = true ∧
    (¬reservedByte c c.escMarker ∨ ∃ b : Byte, reservedByte c b ∧ reservedByte c (b ^^^ c.escXor)) := by
  simp only [escapeLegal, Bool.or_eq_false_iff, Bool.and_eq_false_iff, Bool.not_eq_false', List.all_eq_false,
    Bool.not_eq_true', Bool.not_eq_false, ← needsEscape_iff, Bool.not_eq_true, mem_escSet_iff]

theorem configLegal_eq_false_iff : configLegal c = false ↔
    widthLegal c = false ∨ percentLegal c = false ∨ amplitudeLegal c = false ∨ timingLegal c = false ∨
      capacityLegal c = false ∨ headerLegal c = false ∨ escapeLegal c = false := by
  simp only [configLegal, Bool.and_eq_false_iff]
  tauto

end

end Sys2Proof.Machine

namespace Sys2Proof

open Sys2Proof.Machine

/-- Settles O8: a configuration is illegal when one of its checks fails, and each check fails on its reserved values. -/
theorem illegalConfigurationRefused : Obligations.IllegalConfigurationRefused := by
  refine ⟨fun c => ?_, fun _ _ _ => step_of_illegal_cfg⟩
  simp only [configLegal_eq_false_iff, widthLegal_eq_false_iff, percentLegal_eq_false_iff, amplitudeLegal_eq_false_iff,
    timingLegal_eq_false_iff, capacityLegal_eq_false_iff, headerLegal_eq_false_iff, escapeLegal_eq_false_iff, or_assoc]

/-- Settles O5: the step refuses the configuration before the word, and the word itself once it is taken. -/
theorem reservedCodeRefused : Obligations.ReservedCodeRefused := by
  refine ⟨fun w s hcmd => by rw [decode_of_cmd_reserved3 hcmd, exec_reserved3], fun s x rest hinput hrst hcmd => ?_⟩
  by_cases hcfg : x.cfg = s.cfg
  · cases hl : configLegal s.cfg with
    | false => exact ⟨_, step_of_illegal_cfg hinput hrst hcfg hl⟩
    | true => exact ⟨_, by rw [step_of_word hinput hrst hcfg hl, decode_of_cmd_reserved3 hcmd, exec_reserved3]⟩
  · exact ⟨_, step_of_changed_cfg hinput hrst hcfg⟩

/-- Settles O6. -/
theorem stepRunsDecodedWord : Obligations.StepRunsDecodedWord := by
  intro s x rest i hinput hrst hcfg hl hdecode
  rw [step_of_word hinput hrst hcfg hl, hdecode]
  rfl

end Sys2Proof

/-!
PROOFS about the link (30_encoding.md R84 to R88): the operands of a sample, the header patterns, and that a block on an
inverted link produces the same records.
-/

namespace Sys2Proof.Machine

/-! ### The operands of a sample (R84) -/

/-- A shift by 4 is a multiplication by 16, kept to 16 bits. -/
theorem normaliseComponent_eq (raw : Half) : normaliseComponent raw = BitVec.ofInt 16 (16 * raw.toInt) := by
  rw [← BitVec.toInt_inj, normaliseComponent, BitVec.toInt_shiftLeft, BitVec.toInt_ofInt, sampleShift,
    Nat.shiftLeft_eq, BitVec.toInt_eq_toNat_bmod, Int.mul_bmod_bmod, Nat.mul_comm]
  rfl

theorem normaliseComponent_toInt {raw : Half} (hlow : -2048 ≤ raw.toInt) (hhigh : raw.toInt ≤ 2047) :
    (normaliseComponent raw).toInt = 16 * raw.toInt := by
  rw [normaliseComponent_eq, BitVec.toInt_ofInt]
  exact Int.bmod_eq_of_le (by norm_num; omega) (by norm_num; omega)

/-- The four high bits of a component are shifted out. -/
theorem normaliseComponent_congr {raw raw' : Half} (h : raw.toNat % 4096 = raw'.toNat % 4096) :
    normaliseComponent raw = normaliseComponent raw' := by
  rw [← BitVec.toNat_inj, normaliseComponent, normaliseComponent, BitVec.toNat_shiftLeft, BitVec.toNat_shiftLeft,
    sampleShift, Nat.shiftLeft_eq, Nat.shiftLeft_eq]
  omega

/-- A sample acts by its amplitude alone. -/
theorem sampleNext_congr {iRaw iRaw' qRaw qRaw' : Half} (h : sampleAmplitude iRaw qRaw = sampleAmplitude iRaw' qRaw')
    (s : State) : sampleNext iRaw qRaw s = sampleNext iRaw' qRaw' s := by
  rw [sampleNext, sampleNext, sampleBit, sampleBit, h]

/-! ### The header patterns and the complement of a window (R86, 41_header_detector.md R142, R148) -/

theorem mask_getLsbD {c : Config} (hw : c.headerWidth ≤ 12) (k : Nat) :
    (mask c).getLsbD k = decide (k < c.headerWidth) := by
  rw [← BitVec.testBit_toNat, mask_toNat hw, Nat.testBit_two_pow_sub_one]

theorem mask_getElem {c : Config} (hw : c.headerWidth ≤ 12) {k : Nat} (hk : k < 12) :
    (mask c)[k] = decide (k < c.headerWidth) := by
  rw [← BitVec.getLsbD_eq_getElem, mask_getLsbD hw]

theorem inverseHeader_getLsbD {c : Config} (hw : c.headerWidth ≤ 12) {k : Nat} (hk : k < c.headerWidth) :
    (inverseHeader c).getLsbD k = !(headerWord c).getLsbD k := by
  simp [inverseHeader, mask_getLsbD hw, hk, hk.trans_le hw]

theorem configLegal_width_pos {c : Config} (hl : configLegal c = true) : 0 < c.headerWidth := by
  obtain ⟨hwidth, -⟩ := configLegal_spec hl
  simp at hwidth
  omega

/-- They differ in bit 0 already. -/
theorem headerWord_ne_inverseHeader {c : Config} (hl : configLegal c = true) : headerWord c ≠ inverseHeader c := by
  intro h
  have hbit := inverseHeader_getLsbD (configLegal_width_le hl) (configLegal_width_pos hl)
  rw [← h] at hbit
  exact (Bool.eq_not_self _).mp hbit

/-- The window as a link of the other polarity shows it (R148). -/
def complementWindow (c : Config) (w : BitVec 12) : BitVec 12 := ~~~w &&& mask c

theorem complementWindow_headerWord (c : Config) : complementWindow c (headerWord c) = inverseHeader c := rfl

theorem complementWindow_complementWindow (c : Config) {w : BitVec 12} (hw : w = w &&& mask c) :
    complementWindow c (complementWindow c w) = w := by
  rw [hw]
  ext k hk
  simp only [complementWindow, BitVec.getElem_and, BitVec.getElem_not]
  cases w[k] <;> cases (mask c)[k] <;> rfl

theorem header_lt {c : Config} (hl : configLegal c = true) : c.header < 2 ^ c.headerWidth := by
  obtain ⟨-, hheader, -⟩ := configLegal_spec hl
  have hpos := Nat.two_pow_pos c.headerWidth
  rw [maskNat] at hheader
  omega

theorem headerWord_masked {c : Config} (hl : configLegal c = true) : headerWord c = headerWord c &&& mask c := by
  rw [← BitVec.toNat_inj, BitVec.toNat_and, mask_toNat (configLegal_width_le hl), Nat.and_two_pow_sub_one_eq_mod,
    headerWord_toNat hl, Nat.mod_eq_of_lt (header_lt hl)]

section
variable {c : Config} (hl : configLegal c = true) {w : BitVec 12} (hw : w = w &&& mask c)
include hl hw

theorem complementWindow_eq_headerWord_iff : complementWindow c w = headerWord c ↔ w = inverseHeader c := by
  constructor <;> intro h
  · rw [← complementWindow_headerWord, ← h, complementWindow_complementWindow c hw]
  · rw [h, ← complementWindow_headerWord, complementWindow_complementWindow c (headerWord_masked hl)]

theorem complementWindow_eq_inverseHeader_iff : complementWindow c w = inverseHeader c ↔ w = headerWord c := by
  constructor <;> intro h
  · rw [← complementWindow_complementWindow c hw, h, ← complementWindow_headerWord,
      complementWindow_complementWindow c (headerWord_masked hl)]
  · rw [h, complementWindow_headerWord]

end

theorem shiftWindow_masked (c : Config) (w : BitVec 12) (bit : Bool) :
    shiftWindow c w bit = shiftWindow c w bit &&& mask c := by
  rw [shiftWindow, BitVec.and_assoc, BitVec.and_self]

/-- Complementary windows stay complementary under complementary bits: the mask lets no bit in from above. -/
theorem shiftWindow_complementWindow {c : Config} (hw : c.headerWidth ≤ 12) (w : BitVec 12) (bit : Bool) :
    shiftWindow c (complementWindow c w) (!bit) = complementWindow c (shiftWindow c w bit) := by
  ext k hk
  rcases k with - | k
  · cases bit <;> simp [shiftWindow, complementWindow]
  · by_cases hin : k + 1 < c.headerWidth
    · simp [shiftWindow, complementWindow, mask_getElem hw, hin, (Nat.lt_succ_self k).trans hin]
    · simp [shiftWindow, complementWindow, mask_getElem hw, hin]

end Sys2Proof.Machine

namespace Sys2Proof

open Sys2Proof.Machine

/-- Settles O11: the shift is all that a sample makes of its operands. -/
theorem onlyLowTwelveBitsCount : Obligations.OnlyLowTwelveBitsCount := by
  refine ⟨fun iRaw qRaw => ⟨?_, normaliseComponent_eq iRaw⟩, fun _ => normaliseComponent_toInt,
    fun iRaw iRaw' qRaw qRaw' s h => ?_⟩
  · rw [normalise, normaliseComponent_eq, normaliseComponent_eq]
  · rw [exec_sample, exec_sample,
      sampleNext_congr (show sampleAmplitude iRaw qRaw = sampleAmplitude iRaw' qRaw' from normaliseComponent_congr h)]

/-- Settles O18. -/
theorem headerPatternsComplementary : Obligations.HeaderPatternsComplementary := fun _ hl =>
  ⟨headerWord_toNat hl, inverseHeader_toNat hl, fun _ => inverseHeader_getLsbD (configLegal_width_le hl),
    headerWord_ne_inverseHeader hl⟩

end Sys2Proof

namespace Sys2Proof.Machine

/-! ### A search step by the pattern that its window completes (41_header_detector.md R141, R143) -/

section
variable {s : State} {bit : Bool}

theorem searchStep_of_header (h : shiftWindow s.cfg s.window bit = headerWord s.cfg) :
    searchStep bit s = (s.setWindow (shiftWindow s.cfg s.window bit)).lock false :=
  if_pos h

theorem searchStep_of_inverseHeader (hl : configLegal s.cfg = true)
    (h : shiftWindow s.cfg s.window bit = inverseHeader s.cfg) :
    searchStep bit s = (s.setWindow (shiftWindow s.cfg s.window bit)).lock true :=
  (if_neg fun hheader => headerWord_ne_inverseHeader hl (hheader.symm.trans h)).trans (if_pos h)

theorem searchStep_of_noMatch (hheader : shiftWindow s.cfg s.window bit ≠ headerWord s.cfg)
    (hinverse : shiftWindow s.cfg s.window bit ≠ inverseHeader s.cfg) :
    searchStep bit s = s.setWindow (shiftWindow s.cfg s.window bit) :=
  (if_neg hheader).trans (if_neg hinverse)

end

theorem sampleNext_of_searching {s : State} (hr : s.isReadingHeader = true) (iRaw qRaw : Half) :
    sampleNext iRaw qRaw s = searchStep (sampleBit iRaw qRaw s)
      (s.setAmplitudeLast (baseline s.cfg (sampleAmplitude iRaw qRaw))) := by
  rw [sampleNext, if_pos hr]

/-- While SEARCHING a line-code sample gives the bit its sign says (R114, R121). -/
theorem sampleBit_linkAmplitude_of_searching {a : Nat} (ha : a ≤ 2047) {s : State} (hs : signDecides a s)
    (hr : s.isReadingHeader = true) (inv : Bool) (qRaw : Half) : sampleBit (linkAmplitude a inv) qRaw s = !inv := by
  rw [sampleBit, classify_linkAmplitude ha hs, applyPolarity, hr]
  rfl

/-! ### The state behind the link

The registers in which mirror images may differ, and the input, are not looked at by the byte assembler. -/

/-- `s` with the registers in which the two links differ replaced. -/
def State.relink (s : State) (last : Half) (w : BitVec 12) (inv : Bool) (xs : List InputStep) : State :=
  { s with amplitudeLast := last, window := w, isSignalInverted := inv, input := xs }

section
variable (s : State) (last : Half) (w : BitVec 12) (inv : Bool) (xs : List InputStep)

theorem append_relink (o : Byte) : append (s.relink last w inv xs) o = (append s o).relink last w inv xs := by
  rcases append_cases s o with ⟨h, e⟩ | ⟨h, e⟩ <;> rw [e]
  · exact if_pos h
  · exact if_neg (Nat.not_lt.mpr h)

theorem appendAll_relink (out : List Byte) :
    appendAll (s.relink last w inv xs) out = (appendAll s out).relink last w inv xs := by
  induction out generalizing s with
  | nil => rfl
  | cons o out ih => rw [appendAll_cons, append_relink, ih]; rfl

theorem nextState_relink : nextState (s.relink last w inv xs) = (nextState s).relink last w inv xs := by
  simp only [nextState, apply_ite (State.relink · last w inv xs)]
  rfl

theorem completeByte_relink : completeByte (s.relink last w inv xs) = (completeByte s).relink last w inv xs := by
  rw [completeByte, completeByte, ← nextState_relink, show (s.relink last w inv xs).cfg = s.cfg from rfl,
    appendAll_relink]
  rfl

theorem assembleStep_relink (bit : Bool) :
    assembleStep bit (s.relink last w inv xs) = (assembleStep bit s).relink last w inv xs := by
  simp only [assembleStep, apply_ite (State.relink · last w inv xs), ← completeByte_relink]
  rfl

end

/-- What an assemble step leaves alone that a search step writes (R146). -/
theorem assembleStep_frame (bit : Bool) (s : State) : (assembleStep bit s).window = s.window ∧
    (assembleStep bit s).isSignalInverted = s.isSignalInverted ∧ (assembleStep bit s).cfg = s.cfg := by
  rcases assembleStep_cases bit s with ⟨-, e⟩ | ⟨-, e⟩ <;> rw [e]
  · obtain ⟨-, hwindow, hinv, hcfg, -⟩ :=
      completeByte_frame (s.setSlot (shiftByte s.tempByte bit) (s.bitIndex + 1))
    exact ⟨hwindow, hinv, hcfg⟩
  · exact ⟨rfl, rfl, rfl⟩

/-! ### Mirror images (41_header_detector.md R148) -/

section
variable {s u : State} (h : MirrorImages s u)
include h

theorem MirrorImages.cfg : u.cfg = s.cfg := by rw [h.rest]

theorem MirrorImages.flushes : u.flushes = s.flushes := by rw [h.rest]

theorem MirrorImages.contents : contents u = contents s := by rw [h.rest]; rfl

theorem MirrorImages.setInput (xs ys : List InputStep) : MirrorImages (s.setInput xs) (u.setInput ys) :=
  { h with rest := congrArg (State.setInput · ys) h.rest }

theorem MirrorImages.setAmplitudeLast (v w : Half) : MirrorImages (s.setAmplitudeLast v) (u.setAmplitudeLast w) :=
  { h with rest := congrArg (State.setAmplitudeLast · w) h.rest }

theorem MirrorImages.scanEnd (bytes : List Byte) :
    MirrorImages ((s.emitRecord (flushRecord s bytes)).clearScan) ((u.emitRecord (flushRecord u bytes)).clearScan) :=
  { h with rest := by rw [h.rest]; rfl }

/-- While LOCKED the polarity flags undo the inversion of the link: the assembler sees one bit (R146). -/
theorem MirrorImages.assembleStep (hr : s.isReadingHeader = false) (bit : Bool) :
    MirrorImages (assembleStep bit s) (assembleStep bit u) := by
  have hstep : Machine.assembleStep bit u =
      (Machine.assembleStep bit s).relink u.amplitudeLast u.window u.isSignalInverted u.input := by
    rw [← assembleStep_relink]
    exact congrArg (Machine.assembleStep bit) h.rest
  obtain ⟨hwindow, hinv, hcfg⟩ := assembleStep_frame bit s
  rw [hstep]
  exact {
    window := by rw [hwindow, hcfg]; exact h.window
    masked := by rw [hwindow, hcfg]; exact h.masked
    phase := rfl
    polarity := fun _ => by rw [hinv]; exact h.polarity hr
    rest := rfl }

/-- While SEARCHING the one block completes a pattern when the other completes its inverse (R142, R148). -/
theorem MirrorImages.searchStep (hl : configLegal s.cfg = true) (bit : Bool) :
    MirrorImages (searchStep bit s) (searchStep (!bit) u) := by
  have hmirror : shiftWindow u.cfg u.window (!bit) = complementWindow s.cfg (shiftWindow s.cfg s.window bit) := by
    rw [h.cfg, h.window]
    exact shiftWindow_complementWindow (configLegal_width_le hl) s.window bit
  have hheader_iff : shiftWindow u.cfg u.window (!bit) = headerWord u.cfg ↔
      shiftWindow s.cfg s.window bit = inverseHeader s.cfg := by
    rw [hmirror, h.cfg]
    exact complementWindow_eq_headerWord_iff hl (shiftWindow_masked s.cfg s.window bit)
  have hinverse_iff : shiftWindow u.cfg u.window (!bit) = inverseHeader u.cfg ↔
      shiftWindow s.cfg s.window bit = headerWord s.cfg := by
    rw [hmirror, h.cfg]
    exact complementWindow_eq_inverseHeader_iff hl (shiftWindow_masked s.cfg s.window bit)
  have hset : MirrorImages (s.setWindow (shiftWindow s.cfg s.window bit))
      (u.setWindow (shiftWindow u.cfg u.window (!bit))) :=
    { h with
      window := hmirror
      masked := shiftWindow_masked s.cfg s.window bit
      rest := congrArg (State.setWindow · (shiftWindow u.cfg u.window (!bit))) h.rest }
  have hlock (inv : Bool) : MirrorImages ((s.setWindow (shiftWindow s.cfg s.window bit)).lock inv)
      ((u.setWindow (shiftWindow u.cfg u.window (!bit))).lock (!inv)) :=
    { hset with
      phase := rfl
      polarity := fun _ => rfl
      rest := congrArg (State.lock · (!inv)) hset.rest }
  rcases searchStep_cases bit s with ⟨hheader, e⟩ | ⟨-, hinverse, e⟩ | ⟨hheader, hinverse, e⟩ <;> rw [e]
  · rw [searchStep_of_inverseHeader (h.cfg ▸ hl) (hinverse_iff.mpr hheader)]
    exact hlock false
  · rw [searchStep_of_header (hheader_iff.mpr hinverse)]
    exact hlock true
  · rw [searchStep_of_noMatch (mt hheader_iff.mp hinverse) (mt hinverse_iff.mp hheader)]
    exact hset

/-- Two line-code samples of opposite sign (R121, R148). -/
theorem MirrorImages.sampleNext_linkAmplitude (hl : configLegal s.cfg = true) {a : Nat} (ha : a ≤ 2047)
    (hs : signDecides a s) (hu : signDecides a u) (inv : Bool) (qRaw : Half) :
    MirrorImages (sampleNext (linkAmplitude a inv) qRaw s) (sampleNext (linkAmplitude a (!inv)) qRaw u) := by
  have hbaseline := h.setAmplitudeLast (baseline s.cfg (sampleAmplitude (linkAmplitude a inv) qRaw))
    (baseline u.cfg (sampleAmplitude (linkAmplitude a (!inv)) qRaw))
  cases hr : s.isReadingHeader with
  | true =>
    have hru : u.isReadingHeader = true := h.phase.trans hr
    rw [sampleNext_of_searching hr, sampleNext_of_searching hru, sampleBit_linkAmplitude_of_searching ha hs hr,
      sampleBit_linkAmplitude_of_searching ha hu hru]
    exact hbaseline.searchStep hl (!inv)
  | false =>
    have hru : u.isReadingHeader = false := h.phase.trans hr
    have hbit : sampleBit (linkAmplitude a (!inv)) qRaw u = sampleBit (linkAmplitude a inv) qRaw s := by
      rw [sampleBit, sampleBit, classify_linkAmplitude ha hs, classify_linkAmplitude ha hu, applyPolarity,
        applyPolarity, hr, hru, h.polarity hr]
      cases s.isSignalInverted <;> simp
    rw [sampleNext_of_locked hr, sampleNext_of_locked hru, hbit]
    exact hbaseline.assembleStep hr _

end

/-- A line-code bit with its amplitude negated is the same bit on the inverted link (30_encoding.md R88). -/
theorem negated_txBit (a : Nat) (b : Bool) :
    negated (txBit (linkAmplitude a false) b) = txBit (linkAmplitude a true) b := by
  cases b <;> simp [txBit, linkAmplitude, negated]

/-- An operation of a line-code stream: a bit, a scan end or a `NOP`. -/
def lineItem (a : Nat) (i : Instr) : Prop := i = .nop ∨ i = .scanEnd ∨ ∃ b, i = txBit (linkAmplitude a false) b

/-- What the two runs keep: mirror images, in both of which the sign decides. -/
structure MirroredLinks (a : Nat) (s u : State) : Prop where
  mirror : MirrorImages s u
  inv : s.Inv
  signLeft : signDecides a s
  signRight : signDecides a u

section
variable {a : Nat} (ha : 1 ≤ a) (ha' : a ≤ 2047) {s u : State} (hl : configLegal s.cfg = true)
  (hp : s.cfg.percentLast < 100) (h : MirroredLinks a s u)
include ha ha' hl hp h

/-- One operation of the stream, and its negation, keep mirrored links. -/
theorem MirroredLinks.exec {i : Instr} (hi : lineItem a i) :
    ∃ t v, exec i s = .next t ∧ exec (negated i) u = .next v ∧ MirroredLinks a t v := by
  obtain ⟨hmirror, hinv, hs, hu⟩ := h
  rcases hi with rfl | rfl | ⟨b, rfl⟩
  · exact ⟨s, u, exec_nop s, exec_nop u, hmirror, hinv, hs, hu⟩
  · obtain ⟨bytes, hbytes⟩ := contents_total hinv
    exact ⟨_, _, exec_scanEnd_of_ok hbytes, exec_scanEnd_of_ok (hmirror.contents.trans hbytes),
      hmirror.scanEnd bytes, hinv.scanEnd _, hs, hu⟩
  · rw [negated_txBit, txBit_linkAmplitude, txBit_linkAmplitude, show (b == true) = !(b == false) by cases b <;> rfl]
    exact ⟨_, _, exec_sample _ _ _, exec_sample _ _ _, hmirror.sampleNext_linkAmplitude hl ha' hs hu _ _,
      hinv.sampleNext hl _ _, signDecides_sampleNext ha ha' hp _ _,
      signDecides_sampleNext ha ha' (hmirror.cfg ▸ hp) _ _⟩

/-- The whole stream (R148). -/
theorem MirroredLinks.runSteps {is : List Instr} (his : ∀ i ∈ is, lineItem a i)
    (hsinput : s.input = stimulus s.cfg is) (huinput : u.input = stimulus s.cfg (is.map negated)) :
    ∃ t v, runSteps is.length s = .next t ∧ runSteps is.length u = .next v ∧ MirroredLinks a t v := by
  induction is generalizing s u with
  | nil => exact ⟨s, u, rfl, rfl, h⟩
  | cons i is ih =>
    obtain ⟨hi, his⟩ := List.forall_mem_cons.mp his
    rw [stimulus_cons] at hsinput
    rw [List.map_cons, stimulus_cons, ← h.mirror.cfg] at huinput
    have htail : MirroredLinks a (s.setInput (stimulus s.cfg is)) (u.setInput (stimulus u.cfg (is.map negated))) :=
      ⟨h.mirror.setInput _ _, h.inv.setInput _, h.signLeft, h.signRight⟩
    obtain ⟨t, v, ht, hv, hnext⟩ := MirroredLinks.exec ha ha' (s := s.setInput (stimulus s.cfg is)) hl hp htail hi
    obtain ⟨htcfg, htinput⟩ := exec_next_cfg_input ht
    obtain ⟨-, hvinput⟩ := exec_next_cfg_input hv
    have htcfg : t.cfg = s.cfg := htcfg
    obtain ⟨t', v', ht', hv', hend⟩ := ih (htcfg ▸ hl) (htcfg ▸ hp) hnext his (by rw [htinput, htcfg]; rfl)
      (by rw [hvinput, htcfg, ← h.mirror.cfg]; rfl)
    exact ⟨t', v', (runSteps_succ_of_next _ ((step_of_encode hl hsinput).trans ht)).trans ht',
      (runSteps_succ_of_next _ ((step_of_encode (h.mirror.cfg ▸ hl) huinput).trans hv)).trans hv', hend⟩

end

end Sys2Proof.Machine

namespace Sys2Proof

open Sys2Proof.Machine

/-- Settles O38: every operation of the stream keeps mirrored links, and mirror images have the same records. -/
theorem invertedLinkGivesSameRecords : Obligations.InvertedLinkGivesSameRecords := by
  intro s u a is hl hs h ha ha' hp hss hsu his hsinput huinput
  obtain ⟨t, v, ht, hv, hend⟩ := MirroredLinks.runSteps ha ha' hl hp ⟨h, hs, hss, hsu⟩ his hsinput huinput
  exact ⟨t, v, ht, hv, hend.mirror.flushes, hend.mirror⟩

end Sys2Proof

/-!
PROOFS about the reception of a frame (30_encoding.md R92): the header on the line locks the block, and the byte after
it reaches the buffer.
-/

namespace Sys2Proof.Machine

/-! ### Runs and the invariants -/

theorem runSteps_keeps_inv {s t : State} {n : Nat} (hs : s.Inv) (h : runSteps n s = .next t) : t.Inv := by
  induction n generalizing s with
  | zero => cases h; exact hs
  | succ n ih =>
    obtain ⟨u, hstep, hrun⟩ := runSteps_succ_cases h
    exact ih (stepKeepsInvariants s u hs hstep) hrun

/-! ### The header on the line (30_encoding.md R86, R92, 41_header_detector.md R141) -/

/-- The pattern that the header leaves in the window of a block on a link of polarity `inv`. -/
def headerPattern (c : Config) (inv : Bool) : Nat := if inv then 2 ^ c.headerWidth - 1 - c.header else c.header

/-- The header bit `k` on the line, bit W-1 first, as the block reads it. -/
def headerBit (c : Config) (inv : Bool) (k : Nat) : Bool := c.header.testBit (c.headerWidth - 1 - k) != inv

theorem lineWindow_succ (c : Config) (inv : Bool) (w k : Nat) : lineWindow c inv w (k + 1) =
    (2 * lineWindow c inv w k + (headerBit c inv k).toNat) % 2 ^ c.headerWidth := rfl

theorem lineWindow_lt {c : Config} (hw : c.headerWidth ≤ 12) (inv : Bool) {w : Nat} (hlt : w < 2 ^ 12) (k : Nat) :
    lineWindow c inv w k < 2 ^ 12 := by
  cases k with
  | zero => exact hlt
  | succ k => exact (Nat.mod_lt _ (Nat.two_pow_pos _)).trans_le (Nat.pow_le_pow_right (by decide) hw)

theorem headerPattern_lt {c : Config} (hl : configLegal c = true) (inv : Bool) :
    headerPattern c inv < 2 ^ c.headerWidth := by
  have hlt := header_lt hl
  cases inv <;> simp only [headerPattern, Bool.false_eq_true, if_true, if_false] <;> omega

theorem headerPattern_testBit {c : Config} (hl : configLegal c = true) (inv : Bool) {j : Nat} (hj : j < c.headerWidth) :
    (headerPattern c inv).testBit j = (c.header.testBit j != inv) := by
  cases inv with
  | false => simp [headerPattern]
  | true =>
    rw [headerPattern, if_pos rfl, Nat.sub_sub, Nat.add_comm 1, Nat.testBit_two_pow_sub_succ (header_lt hl)]
    simp [hj]

/-- The first `k` header bits push the old window up and leave the high bits of the pattern below it. -/
theorem lineWindow_modEq {c : Config} (hl : configLegal c = true) (inv : Bool) (w : Nat) {k : Nat}
    (hk : k ≤ c.headerWidth) : lineWindow c inv w k ≡
      w * 2 ^ k + headerPattern c inv / 2 ^ (c.headerWidth - k) [MOD 2 ^ c.headerWidth] := by
  induction k with
  | zero => simp [lineWindow, Nat.div_eq_of_lt (headerPattern_lt hl inv), Nat.ModEq.refl]
  | succ k ih =>
    obtain ⟨j, hj⟩ : ∃ j, c.headerWidth = k + 1 + j := Nat.exists_eq_add_of_le hk
    have hbit : (headerBit c inv k).toNat = headerPattern c inv / 2 ^ j % 2 := by
      rw [← Nat.toNat_testBit, headerPattern_testBit hl inv (by omega), headerBit,
        show c.headerWidth - 1 - k = j by omega]
    have hhalf : headerPattern c inv / 2 ^ (c.headerWidth - k) = headerPattern c inv / 2 ^ j / 2 := by
      rw [Nat.div_div_eq_div_mul, ← Nat.pow_succ, show c.headerWidth - k = j.succ by omega]
    calc lineWindow c inv w (k + 1)
      _ ≡ 2 * lineWindow c inv w k + (headerBit c inv k).toNat [MOD 2 ^ c.headerWidth] := Nat.mod_modEq _ _
      _ ≡ 2 * (w * 2 ^ k + headerPattern c inv / 2 ^ (c.headerWidth - k)) + (headerBit c inv k).toNat
          [MOD 2 ^ c.headerWidth] := ((ih (by omega)).mul_left 2).add_right _
      _ = w * 2 ^ (k + 1) + headerPattern c inv / 2 ^ (c.headerWidth - (k + 1)) := by
        rw [hbit, hhalf, show c.headerWidth - (k + 1) = j by omega, Nat.pow_succ, ← Nat.mul_assoc]
        omega

/-- The whole header replaces the window, whatever it held. -/
theorem lineWindow_headerWidth {c : Config} (hl : configLegal c = true) (inv : Bool) (w : Nat) :
    lineWindow c inv w c.headerWidth = headerPattern c inv := by
  have hlt : lineWindow c inv w c.headerWidth < 2 ^ c.headerWidth := by
    obtain ⟨n, hn⟩ := Nat.exists_eq_add_one.mpr (configLegal_width_pos hl)
    rw [hn, lineWindow_succ, ← hn]
    exact Nat.mod_lt _ (Nat.two_pow_pos _)
  refine Nat.ModEq.eq_of_lt_of_lt ?_ hlt (headerPattern_lt hl inv)
  calc lineWindow c inv w c.headerWidth
    _ ≡ w * 2 ^ c.headerWidth + headerPattern c inv / 2 ^ (c.headerWidth - c.headerWidth) [MOD 2 ^ c.headerWidth] :=
      lineWindow_modEq hl inv w le_rfl
    _ = headerPattern c inv + 2 ^ c.headerWidth * w := by
      rw [Nat.sub_self, Nat.pow_zero, Nat.div_one, Nat.mul_comm, Nat.add_comm]
    _ ≡ headerPattern c inv [MOD 2 ^ c.headerWidth] := Nat.add_mul_mod_self_left _ _ _

/-- One more header bit, as the register shifts it in. -/
theorem shiftWindow_lineWindow {c : Config} (hw : c.headerWidth ≤ 12) (inv : Bool) {w : Nat} (hlt : w < 2 ^ 12)
    (k : Nat) : shiftWindow c (BitVec.ofNat 12 (lineWindow c inv w k)) (headerBit c inv k) =
      BitVec.ofNat 12 (lineWindow c inv w (k + 1)) := by
  rw [← BitVec.toNat_inj, shiftWindow_toNat hw, BitVec.toNat_ofNat, BitVec.toNat_ofNat,
    Nat.mod_eq_of_lt (lineWindow_lt hw inv hlt k), Nat.mod_eq_of_lt (lineWindow_lt hw inv hlt (k + 1)), lineWindow_succ]

/-- The patterns as the detector compares them. -/
theorem ofNat_eq_headerWord_iff {c : Config} (hl : configLegal c = true) {n : Nat} (hn : n < 2 ^ 12) :
    BitVec.ofNat 12 n = headerWord c ↔ n = c.header := by
  rw [← BitVec.toNat_inj, BitVec.toNat_ofNat, Nat.mod_eq_of_lt hn, headerWord_toNat hl]

theorem ofNat_eq_inverseHeader_iff {c : Config} (hl : configLegal c = true) {n : Nat} (hn : n < 2 ^ 12) :
    BitVec.ofNat 12 n = inverseHeader c ↔ n = 2 ^ c.headerWidth - 1 - c.header := by
  rw [← BitVec.toNat_inj, BitVec.toNat_ofNat, Nat.mod_eq_of_lt hn, inverseHeader_toNat hl]

/-- A search step whose window completes the pattern of a link locks with the polarity of that link (R143). -/
theorem searchStep_of_headerPattern {s : State} {bit : Bool} (hl : configLegal s.cfg = true) {inv : Bool}
    (h : shiftWindow s.cfg s.window bit = BitVec.ofNat 12 (headerPattern s.cfg inv)) :
    searchStep bit s = (s.setWindow (BitVec.ofNat 12 (headerPattern s.cfg inv))).lock inv := by
  have hlt := (headerPattern_lt hl inv).trans_le (Nat.pow_le_pow_right (by decide) (configLegal_width_le hl))
  rw [← h]
  cases inv with
  | false => exact searchStep_of_header (h.trans ((ofNat_eq_headerWord_iff hl hlt).mpr rfl))
  | true => exact searchStep_of_inverseHeader hl (h.trans ((ofNat_eq_inverseHeader_iff hl hlt).mpr rfl))

/-! ### A run over the header bits -/

/-- The input item of the header bit `k` on a link that sends with amplitude `a`. -/
def headerItem (c : Config) (a : Half) (k : Nat) : InputStep :=
  wordStep c (encode (txBit a (c.header.testBit (c.headerWidth - 1 - k))))

/-- The first `k` bits of `TXHDR` (R92). -/
def txHeaderBits (c : Config) (a : Half) (k : Nat) : List Instr :=
  (List.range k).map fun j => txBit a (c.header.testBit (c.headerWidth - 1 - j))

theorem txHeader_eq (c : Config) (a : Half) : txHeader c a = txHeaderBits c a c.headerWidth := rfl

/-- One more bit at the end of a stream of header bits. -/
theorem stimulus_txHeaderBits_succ (c : Config) (a : Half) (k : Nat) (xs : List InputStep) :
    stimulus c (txHeaderBits c a (k + 1)) ++ xs = stimulus c (txHeaderBits c a k) ++ headerItem c a k :: xs := by
  rw [txHeaderBits, List.range_succ, List.map_append, stimulus_append, List.append_assoc]
  rfl

/-- `s` once `k` header bits have moved into its window, with the baseline they left and the input still to come. -/
def State.afterHeaderBits (s : State) (inv : Bool) (k : Nat) (last : Half) (xs : List InputStep) : State :=
  { s with amplitudeLast := last, window := BitVec.ofNat 12 (lineWindow s.cfg inv s.window.toNat k), input := xs }

section
variable {s : State} (hl : configLegal s.cfg = true) (inv : Bool) {k : Nat} (last : Half) (xs : List InputStep)
include hl

/-- The search step of the next header bit, where the patterns are not complete. -/
theorem searchStep_afterHeaderBits_of_noMatch (hearly : noEarlyMatch s.cfg inv s.window.toNat)
    (hk : k + 1 < s.cfg.headerWidth) : searchStep (headerBit s.cfg inv k) (s.afterHeaderBits inv k last xs) =
      s.afterHeaderBits inv (k + 1) last xs := by
  have hwindow := shiftWindow_lineWindow (configLegal_width_le hl) inv s.window.isLt k
  have hlt := lineWindow_lt (configLegal_width_le hl) inv s.window.isLt (k + 1)
  obtain ⟨hheader, hinverse⟩ := hearly (k + 1) k.succ_pos hk
  have hstep := searchStep_of_noMatch (s := s.afterHeaderBits inv k last xs) (bit := headerBit s.cfg inv k)
    (fun h => hheader ((ofNat_eq_headerWord_iff hl hlt).mp (hwindow.symm.trans h)))
    (fun h => hinverse ((ofNat_eq_inverseHeader_iff hl hlt).mp (hwindow.symm.trans h)))
  exact hstep.trans (congrArg (State.setWindow _) hwindow)

/-- The search step of the last header bit, which completes the pattern of the link. -/
theorem searchStep_afterHeaderBits_of_last (hk : s.cfg.headerWidth = k + 1) :
    searchStep (headerBit s.cfg inv k) (s.afterHeaderBits inv k last xs) =
      (s.afterHeaderBits inv (k + 1) last xs).lock inv := by
  have hwindow := shiftWindow_lineWindow (configLegal_width_le hl) inv s.window.isLt k
  have hpattern : lineWindow s.cfg inv s.window.toNat (k + 1) = headerPattern s.cfg inv := by
    rw [← hk, lineWindow_headerWidth hl]
  rw [hpattern] at hwindow
  exact (searchStep_of_headerPattern (s := s.afterHeaderBits inv k last xs) hl hwindow).trans
    (congrArg (fun n => ((s.afterHeaderBits inv k last xs).setWindow (BitVec.ofNat 12 n)).lock inv) hpattern.symm)

end

section
variable {a : Nat} (ha : 1 ≤ a) (ha' : a ≤ 2047) {s : State} {inv : Bool} {xs : List InputStep}
  (hl : configLegal s.cfg = true) (hp : s.cfg.percentLast < 100) (hr : s.isReadingHeader = true)
include ha ha' hl hp hr

/-- A line-code bit while SEARCHING is a search step with that bit, inverted on an inverted link, and leaves the sign
to decide (R110, R121). -/
theorem step_searching_txBit {b : Bool} (hsign : signDecides a s)
    (hinput : s.input = wordStep s.cfg (encode (txBit (linkAmplitude a inv) b)) :: xs) :
    ∃ last, step s = .next (searchStep (b != inv) ((s.setInput xs).setAmplitudeLast last)) ∧
      signDecides a (searchStep (b != inv) ((s.setInput xs).setAmplitudeLast last)) := by
  have hnext : sampleNext (linkAmplitude a (b == inv)) 0 (s.setInput xs) = searchStep (b != inv)
      ((s.setInput xs).setAmplitudeLast (baseline s.cfg (sampleAmplitude (linkAmplitude a (b == inv)) 0))) := by
    rw [sampleNext_of_searching (s := s.setInput xs) hr,
      sampleBit_linkAmplitude_of_searching (s := s.setInput xs) ha' hsign hr]
    rfl
  refine ⟨_, (step_of_txBit hl hinput).trans (by rw [hnext]), ?_⟩
  rw [← hnext]
  exact signDecides_sampleNext (s := s.setInput xs) ha ha' hp _ _

/-- The step of the next header bit is a search step over the bits before it. -/
theorem step_headerBit {k : Nat} {last : Half}
    (hlast : signDecides a (s.afterHeaderBits inv k last (headerItem s.cfg (linkAmplitude a inv) k :: xs))) :
    ∃ last', step (s.afterHeaderBits inv k last (headerItem s.cfg (linkAmplitude a inv) k :: xs)) =
        .next (searchStep (headerBit s.cfg inv k) (s.afterHeaderBits inv k last' xs)) ∧
      signDecides a (searchStep (headerBit s.cfg inv k) (s.afterHeaderBits inv k last' xs)) :=
  step_searching_txBit (s := s.afterHeaderBits inv k last _) ha ha' hl hp hr hlast rfl

/-- Header bits before the last one complete no pattern: they only move through the window (R141, R144, R149). -/
theorem runSteps_txHeaderBits (hsign : signDecides a s) (hearly : noEarlyMatch s.cfg inv s.window.toNat) {k : Nat}
    (hk : k < s.cfg.headerWidth)
    (hinput : s.input = stimulus s.cfg (txHeaderBits s.cfg (linkAmplitude a inv) k) ++ xs) :
    ∃ last, runSteps k s = .next (s.afterHeaderBits inv k last xs) ∧
      signDecides a (s.afterHeaderBits inv k last xs) := by
  induction k generalizing xs with
  | zero =>
    have hstart : s.afterHeaderBits inv 0 s.amplitudeLast xs = s := by
      rw [State.afterHeaderBits, lineWindow, BitVec.ofNat_toNat, BitVec.setWidth_eq, show xs = s.input from hinput.symm]
    exact ⟨s.amplitudeLast, by rw [hstart, runSteps_zero], hsign⟩
  | succ k ih =>
    rw [stimulus_txHeaderBits_succ] at hinput
    obtain ⟨last, hrun, hlast⟩ := ih (by omega) hinput
    obtain ⟨last', hstep, hsign'⟩ := step_headerBit ha ha' hl hp hr hlast
    rw [searchStep_afterHeaderBits_of_noMatch hl inv last' xs hearly hk] at hstep hsign'
    exact ⟨last', (runSteps_add k 1 hrun).trans (runSteps_succ_of_next 0 hstep), hsign'⟩

/-- The last header bit completes the pattern of the link. -/
theorem runSteps_txHeader (hsign : signDecides a s) (hearly : noEarlyMatch s.cfg inv s.window.toNat)
    (hinput : s.input = stimulus s.cfg (txHeader s.cfg (linkAmplitude a inv)) ++ xs) :
    ∃ last, runSteps s.cfg.headerWidth s = .next ((s.afterHeaderBits inv s.cfg.headerWidth last xs).lock inv) ∧
      signDecides a ((s.afterHeaderBits inv s.cfg.headerWidth last xs).lock inv) := by
  obtain ⟨k, hk⟩ := Nat.exists_eq_add_one.mpr (configLegal_width_pos hl)
  rw [txHeader_eq, hk, stimulus_txHeaderBits_succ] at hinput
  obtain ⟨last, hrun, hlast⟩ := runSteps_txHeaderBits ha ha' hl hp hr hsign hearly (by omega) hinput
  obtain ⟨last', hstep, hsign'⟩ := step_headerBit ha ha' hl hp hr hlast
  rw [searchStep_afterHeaderBits_of_last hl inv last' xs hk] at hstep hsign'
  rw [hk]
  exact ⟨last', (runSteps_add k 1 hrun).trans (runSteps_succ_of_next 0 hstep), hsign'⟩

end

end Sys2Proof.Machine

namespace Sys2Proof

open Sys2Proof.Machine

/-- Settles O41: the window after the last header bit is the pattern of the link. -/
theorem transmittedHeaderLocks : Obligations.TransmittedHeaderLocks := by
  intro s a inv rest hl hp ha ha' hsign hr hearly hinput
  obtain ⟨last, hrun, hlast⟩ := runSteps_txHeader ha ha' hl hp hr hsign hearly hinput
  refine ⟨_, hrun, hlast, ?_⟩
  rw [State.afterHeaderBits, lineWindow_headerWidth hl]
  rfl

/-- Settles O43: the header leaves a block that is at the first bit of a slot in normal mode, with the polarity of the
link recorded and the buffer as it was; the byte follows. -/
theorem transmittedFrameRecovered : Obligations.TransmittedFrameRecovered := by
  intro s a inv v bytes rest hs hl hp ha ha' hsign hr hearly hbytes hinput
  rw [txFrame, stimulus_append, List.append_assoc] at hinput
  obtain ⟨last, hrun, hlast⟩ := runSteps_txHeader ha ha' hl hp hr hsign hearly hinput
  have hlocked := runSteps_keeps_inv hs hrun
  obtain ⟨t, hbyte, htinput, -, htinv, htflushes, htbytes⟩ := transmittedByteRecovered _ a v bytes rest
    hlocked hl hp ha ha' hlast rfl (hs.normal_of_searching hr) rfl hbytes rfl
  exact ⟨t, (runSteps_add _ 8 hrun).trans hbyte, htinput, htinv, htflushes, htbytes⟩

end Sys2Proof

/-!
PROOFS about the bit synchronizer (40_bit_synchronizer.md): the baseline and what it makes of constant input, of the line
code and of silence; the bit a sample hands to its stage; and that every operation of the environment completes.
-/

namespace Sys2Proof.Machine

/-! ### The percentage of an amplitude (R115, R116) -/

/-- The model's quotient is the library's, which the statements use. -/
theorem truncdiv_eq_tdiv (a : Int) (b : Nat) : truncdiv a b = a.tdiv b := by
  cases a with
  | ofNat n => exact if_pos (Int.natCast_nonneg n)
  | negSucc n => exact if_neg (Int.not_le.mpr (Int.negSucc_lt_zero n))

theorem baseline_zero (c : Config) : baseline c 0 = 0 := by
  simp [baseline, truncdiv]

section
variable {c : Config} (hp : c.percentLast ≤ 100) (amp : Half)
include hp

theorem baseline_toInt_tdiv : (baseline c amp).toInt = (amp.toInt * c.percentLast).tdiv 100 :=
  (baseline_toInt hp amp).trans (truncdiv_eq_tdiv _ 100)

theorem baseline_natAbs_le : (baseline c amp).toInt.natAbs ≤ amp.toInt.natAbs := by
  rw [baseline_toInt_tdiv hp, Int.natAbs_tdiv, Int.natAbs_mul, Int.natAbs_natCast]
  exact Nat.div_le_of_le_mul ((Nat.mul_le_mul_left _ hp).trans_eq (Nat.mul_comm _ _))

theorem baseline_nonneg (h : 0 ≤ amp.toInt) : 0 ≤ (baseline c amp).toInt := by
  rw [baseline_toInt_tdiv hp]
  exact Int.tdiv_nonneg (by positivity) (by decide)

theorem baseline_nonpos (h : amp.toInt ≤ 0) : (baseline c amp).toInt ≤ 0 := by
  rw [baseline_toInt_tdiv hp]
  exact Int.tdiv_le_tdiv (b := 0) (by decide) (mul_nonpos_of_nonpos_of_nonneg h (by positivity))

/-- Rounding toward zero is odd; -32768 is its own negation in 16 bits. -/
theorem baseline_neg_toInt (h : amp.toInt ≠ -32768) : (baseline c (-amp)).toInt = -(baseline c amp).toInt := by
  have hneg : (-amp).toInt = -amp.toInt := BitVec.toInt_neg_of_ne_intMin fun hmin => h (by rw [hmin]; rfl)
  rw [baseline_toInt_tdiv hp, baseline_toInt_tdiv hp, hneg, Int.neg_mul, Int.neg_tdiv]

end

theorem baseline_of_full {c : Config} (h : c.percentLast = 100) (amp : Half) : baseline c amp = amp := by
  rw [← BitVec.toInt_inj, baseline_toInt_tdiv h.le, h]
  exact Int.mul_tdiv_cancel _ (by decide)

/-- Below 100 percent the baseline of a negative amplitude lies above it: the percentage of a negative number is nearer to
zero (R119). -/
theorem lt_baseline_of_neg {c : Config} (hp : c.percentLast < 100) {amp : Half} (h : amp.toInt < 0) :
    amp.toInt < (baseline c amp).toInt := by
  have hshare := mul_share_bounds amp.toInt (Nat.le_of_lt_succ hp)
  rw [baseline_toInt hp.le, truncdiv]
  split <;> omega

/-! ### The bit of a sample (R113, R114) -/

/-- The statements' raw bit is the classifier's, whatever the quadrature. -/
theorem rawBit_eq_classify (iRaw qRaw : Half) (s : State) :
    rawBit iRaw s = classify (sampleAmplitude iRaw qRaw) s.amplitudeLast := rfl

theorem sampleBit_of_locked {s : State} (hr : s.isReadingHeader = false) (iRaw qRaw : Half) :
    sampleBit iRaw qRaw s = lockedBit iRaw s := by
  rw [sampleBit, applyPolarity, lockedBit, rawBit_eq_classify iRaw qRaw, hr]
  cases s.isSignalInverted <;> simp

theorem baseline_eq_newBaseline (iRaw qRaw : Half) (s : State) :
    baseline s.cfg (sampleAmplitude iRaw qRaw) = newBaseline iRaw s := by
  rw [baseline, truncdiv_eq_tdiv]
  rfl

/-- A second sample of the same raw value compares an amplitude with its own percentage (R119). -/
theorem rawBit_sampleNext_self (iRaw qRaw : Half) (s : State) : rawBit iRaw (sampleNext iRaw qRaw s) =
    decide ((baseline s.cfg (iRaw <<< 4)).toInt ≤ (iRaw <<< 4).toInt) := by
  rw [rawBit, sampleNext_amplitudeLast]
  rfl

/-! ### The first sample after reset (R120, 41_header_detector.md R149) -/

theorem searchStep_window (bit : Bool) (s : State) :
    (searchStep bit s).window = shiftWindow s.cfg s.window bit := by
  rcases searchStep_cases bit s with ⟨-, e⟩ | ⟨-, -, e⟩ | ⟨-, -, e⟩ <;> rw [e] <;> rfl

theorem sequencing_eq_searching_iff (s : State) : sequencing s = .searching ↔ s.isReadingHeader = true := by
  cases hr : s.isReadingHeader with
  | true => simp [sequencing_of_searching hr]
  | false =>
    cases hi : s.ignoreHeaders with
    | true => simp [sequencing_of_ignoring hr hi]
    | false => simp [sequencing_of_normal hr hi]

section
variable {s : State} (hl : configLegal s.cfg = true) (hr : s.isReadingHeader = true) (iRaw qRaw : Half)
include hl hr

theorem sampleNext_window_toNat_of_searching : (sampleNext iRaw qRaw s).window.toNat = windowAfter iRaw s := by
  rw [sampleNext_of_searching hr, searchStep_window]
  exact shiftWindow_sampleBit_toNat hl hr iRaw qRaw

/-- A sample locks a SEARCHING block exactly when its window completes a pattern (41_header_detector.md R141, R143). -/
theorem sampleNext_locks_iff (hs : s.Inv) : (sampleNext iRaw qRaw s).isReadingHeader = false ↔
    windowAfter iRaw s = s.cfg.header ∨ windowAfter iRaw s = 2 ^ s.cfg.headerWidth - 1 - s.cfg.header := by
  rw [← Bool.not_eq_true, ← sequencing_eq_searching_iff, sampleNext_sequencing_of_searching hs hl hr]
  split <;> simp_all

end

theorem rawBit_resetWith (c : Config) (xs : List InputStep) (rs : List FlushRecord) (iRaw : Half) :
    rawBit iRaw (State.resetWith c xs rs) = decide (0 ≤ (iRaw <<< 4).toInt) := rfl

/-- The empty window takes the bit in at the low end; no legal width cuts it off. -/
theorem windowAfter_resetWith {c : Config} (hl : configLegal c = true) (xs : List InputStep) (rs : List FlushRecord)
    (iRaw : Half) :
    windowAfter iRaw (State.resetWith c xs rs) = (rawBit iRaw (State.resetWith c xs rs)).toNat := by
  have hbit : (rawBit iRaw (State.resetWith c xs rs)).toNat < 2 ^ c.headerWidth :=
    (Bool.toNat_lt _).trans_le (Nat.le_self_pow (configLegal_width_pos hl).ne' 2)
  rw [windowAfter, State.resetWith_window, State.resetWith_cfg]
  simpa using Nat.mod_eq_of_lt hbit

/-! ### A sample inside a slot (42_byte_assembler.md R161) -/

/-- The accumulator of the statements is the register the assembler shifts. -/
theorem shiftByte_lockedBit (iRaw : Half) (s : State) : shiftByte s.tempByte (lockedBit iRaw s) = slotByte iRaw s := by
  rw [← BitVec.toNat_inj, shiftByte_toNat, slotByte, BitVec.toNat_ofNat]

/-- An assemble step before the last bit of its slot, in any state: a legal slot length cannot wrap the count. -/
theorem assembleStep_inside_slot {s : State} (hl : configLegal s.cfg = true)
    (hopen : s.bitIndex.toNat + 1 < bitsNeeded s) (bit : Bool) :
    assembleStep bit s = s.setSlot (shiftByte s.tempByte bit) (s.bitIndex + 1) := by
  obtain ⟨-, hle⟩ := bitsNeeded_bounds hl
  rcases assembleStep_cases bit s with ⟨hlast, -⟩ | ⟨-, e⟩
  · bv_omega
  · exact e

/-! ### Samples of mirror images (41_header_detector.md R148) -/

section
variable {s u : State} (h : MirrorImages s u)
include h

/-- While LOCKED opposite polarity flags cancel complementary raw bits (R114). -/
theorem MirrorImages.lockedBit (hr : s.isReadingHeader = false) {iRaw iRaw' : Half}
    (hbit : rawBit iRaw' u = !rawBit iRaw s) : lockedBit iRaw' u = lockedBit iRaw s := by
  rw [Machine.lockedBit, Machine.lockedBit, hbit, h.polarity hr]
  exact Bool.not_bne_not _ _

/-- Samples with complementary raw bits keep mirror images: SEARCHING the windows stay complements, LOCKED the assemblers
see one bit. -/
theorem MirrorImages.sampleNext (hl : configLegal s.cfg = true) {iRaw iRaw' : Half}
    (hbit : rawBit iRaw' u = !rawBit iRaw s) (qRaw qRaw' : Half) :
    MirrorImages (sampleNext iRaw qRaw s) (sampleNext iRaw' qRaw' u) := by
  have hbaseline := h.setAmplitudeLast (baseline s.cfg (sampleAmplitude iRaw qRaw))
    (baseline u.cfg (sampleAmplitude iRaw' qRaw'))
  cases hr : s.isReadingHeader with
  | true =>
    have hru : u.isReadingHeader = true := h.phase.trans hr
    rw [sampleNext_of_searching hr, sampleNext_of_searching hru, sampleBit_of_searching hr, sampleBit_of_searching hru,
      hbit]
    exact hbaseline.searchStep hl _
  | false =>
    have hru : u.isReadingHeader = false := h.phase.trans hr
    rw [sampleNext_of_locked hr, sampleNext_of_locked hru, sampleBit_of_locked hr, sampleBit_of_locked hru,
      h.lockedBit hr hbit]
    exact hbaseline.assembleStep hr _

end

/-! ### Which operations complete (60_exceptions.md R220) -/

theorem exec_total {i : Instr} (hi : i.wellFormed = true) {s : State} (hs : s.Inv) : ∃ t, exec i s = .next t := by
  cases i with
  | nop => exact ⟨s, exec_nop s⟩
  | sample iRaw qRaw => exact ⟨_, exec_sample iRaw qRaw s⟩
  | scanEnd =>
    obtain ⟨bytes, hbytes⟩ := contents_total hs
    exact ⟨_, exec_scanEnd_of_ok hbytes⟩
  | reserved3 => cases hi

end Sys2Proof.Machine

namespace Sys2Proof

open Sys2Proof.Machine

/-- Settles O37, by the phase that mirror images share. -/
theorem mirroredStatesStayMirrored : Obligations.MirroredStatesStayMirrored := by
  intro s u hl h
  refine ⟨fun iRaw iRaw' qRaw qRaw' hbit =>
    ⟨_, _, exec_sample iRaw qRaw s, exec_sample iRaw' qRaw' u, h.sampleNext hl hbit qRaw qRaw'⟩, fun t ht => ?_⟩
  rcases exec_scanEnd_cases s with ⟨bytes, hbytes, e⟩ | ⟨f, -, e⟩ <;> rw [e] at ht <;> cases ht
  exact ⟨_, exec_scanEnd_of_ok (h.contents.trans hbytes), h.scanEnd bytes⟩

/-- Settles O12: the exact quotient fits the register, and a scan end clears other registers. -/
theorem sampleLeavesBaselineOfItsAmplitude : Obligations.SampleLeavesBaselineOfItsAmplitude := by
  refine ⟨fun iRaw qRaw s hp => ⟨_, exec_sample iRaw qRaw s, ?sample⟩, fun s t h => ?nop, fun s t h => ?scanEnd⟩
  case sample =>
    rw [sampleNext_amplitudeLast]
    exact baseline_toInt_tdiv hp _
  case nop =>
    cases h
    rfl
  case scanEnd =>
    rcases exec_scanEnd_cases s with ⟨bytes, -, e⟩ | ⟨f, -, e⟩ <;> rw [e] at h <;> cases h
    rfl

/-- Settles O13. -/
theorem baselineArithmetic : Obligations.BaselineArithmetic := fun _ amp hp =>
  ⟨baseline_natAbs_le hp amp, baseline_nonneg hp amp, baseline_nonpos hp amp, baseline_neg_toInt hp amp,
    fun hfull => baseline_of_full hfull amp⟩

/-- Settles O15: the second sample is compared with the percentage of its own amplitude. -/
theorem constantInputBits : Obligations.ConstantInputBits := by
  intro iRaw qRaw s t hp h
  cases h
  rw [rawBit_sampleNext_self, decide_eq_true_iff, decide_eq_false_iff_not, Int.not_le]
  refine ⟨?_, fun ⟨hneg, hlt⟩ => lt_baseline_of_neg hlt hneg⟩
  rintro (hnonneg | hfull)
  · have hle := baseline_natAbs_le hp (iRaw <<< 4)
    have hsign := baseline_nonneg hp (iRaw <<< 4) hnonneg
    omega
  · rw [baseline_of_full hfull]

/-- Settles O16. -/
theorem lineCodeClassifiedBySign : Obligations.LineCodeClassifiedBySign := by
  intro a b q s ha ha' hp hs
  refine ⟨?_, _, exec_sample _ q s, signDecides_sampleNext ha ha' hp _ q⟩
  rw [rawBit_eq_classify _ q, classify_linkAmplitude ha' hs, Bool.not_not]

/-- Settles O17: the baseline of a zero sample is zero. -/
theorem silenceBits : Obligations.SilenceBits := by
  intro q s
  have hzero : (sampleNext 0 q s).amplitudeLast = 0 := (sampleNext_amplitudeLast 0 q s).trans (baseline_zero s.cfg)
  refine ⟨?_, _, exec_sample 0 q s, hzero, by rw [rawBit, hzero]; rfl⟩
  rw [rawBit, decide_eq_false_iff_not, Int.not_le]
  rfl

/-- Settles O20: the window of the reset state is empty, so its first number is the bit itself. -/
theorem firstSampleAfterReset : Obligations.FirstSampleAfterReset := by
  intro c xs rs iRaw qRaw r hl hr
  have hbit : (rawBit iRaw (State.resetWith c xs rs)).toNat = r := by
    rw [rawBit_resetWith, hr]
    split <;> simp_all
  have hwindow := (windowAfter_resetWith hl xs rs iRaw).trans hbit
  have hlt : windowAfter iRaw (State.resetWith c xs rs) < 2 ^ c.headerWidth := Nat.mod_lt _ (Nat.two_pow_pos _)
  have hheader := header_lt hl
  have hsearching := State.resetWith_isReadingHeader c xs rs
  refine ⟨hbit, _, exec_sample iRaw qRaw _, ?window, ?locks⟩
  case window =>
    exact (sampleNext_window_toNat_of_searching (s := State.resetWith c xs rs) hl hsearching iRaw qRaw).trans hwindow
  case locks =>
    rw [sampleNext_locks_iff (s := State.resetWith c xs rs) hl hsearching iRaw qRaw (State.resetWith_inv c xs rs),
      State.resetWith_cfg]
    omega

/-- Settles O22. -/
theorem lockedSampleShiftsIn : Obligations.LockedSampleShiftsIn := by
  intro iRaw qRaw s hl hr hopen
  have hstep := assembleStep_inside_slot (s := s.setAmplitudeLast (baseline s.cfg (sampleAmplitude iRaw qRaw))) hl hopen
    (sampleBit iRaw qRaw s)
  rw [exec_sample, sampleNext_of_locked hr, hstep, sampleBit_of_locked hr,
    baseline_eq_newBaseline, State.setAmplitudeLast_tempByte, shiftByte_lockedBit,
    show BitVec.ofNat 5 (s.bitIndex.toNat + 1) = s.bitIndex + 1 by bv_omega]
  rfl

/-- Settles O32. -/
theorem operationsAreTotal : Obligations.OperationsAreTotal := by
  intro i s hi hl hs
  obtain ⟨t, ht⟩ := exec_total hi hs
  obtain ⟨hcfg, -⟩ := exec_next_cfg_input ht
  exact ⟨t, ht, hcfg, exec_keeps_inv hs hl ht⟩

/-- Settles O14: the amplitude is the in-phase component. -/
theorem quadratureUnused : Obligations.QuadratureUnused := fun _ _ _ s =>
  congrArg Host.Outcome.next (sampleNext_congr rfl s)

end Sys2Proof

/-!
PROOFS about the header detector (41_header_detector.md): a sample while SEARCHING, and how long ignore-headers mode
switches the detector off.
-/

namespace Sys2Proof.Machine

/-! ### A sample while SEARCHING (R141, R143, R144) -/

section
variable {s : State} (hl : configLegal s.cfg = true) (hr : s.isReadingHeader = true) (iRaw qRaw : Half)
include hl hr

theorem shiftWindow_sampleBit_eq_ofNat :
    shiftWindow s.cfg s.window (sampleBit iRaw qRaw s) = BitVec.ofNat 12 (windowAfter iRaw s) := by
  rw [← shiftWindow_sampleBit_toNat hl hr iRaw qRaw, BitVec.ofNat_toNat, BitVec.setWidth_eq]

/-- A sample that completes the pattern of a link locks with the polarity of that link (R143). -/
theorem sampleNext_of_headerPattern {inv : Bool} (h : windowAfter iRaw s = headerPattern s.cfg inv) :
    sampleNext iRaw qRaw s = ((s.setAmplitudeLast (newBaseline iRaw s)).setWindow
      (BitVec.ofNat 12 (windowAfter iRaw s))).lock inv := by
  have hwindow := shiftWindow_sampleBit_eq_ofNat hl hr iRaw qRaw
  rw [h] at hwindow ⊢
  rw [sampleNext_of_searching hr, baseline_eq_newBaseline]
  exact searchStep_of_headerPattern (s := s.setAmplitudeLast (newBaseline iRaw s)) hl hwindow

/-- A sample that completes neither pattern only moves its bit into the window (R141, R144). -/
theorem sampleNext_of_noHeaderPattern (hheader : windowAfter iRaw s ≠ s.cfg.header)
    (hinverse : windowAfter iRaw s ≠ 2 ^ s.cfg.headerWidth - 1 - s.cfg.header) :
    sampleNext iRaw qRaw s =
      (s.setAmplitudeLast (newBaseline iRaw s)).setWindow (BitVec.ofNat 12 (windowAfter iRaw s)) := by
  have hwindow := shiftWindow_sampleBit_eq_ofNat hl hr iRaw qRaw
  have hlt : windowAfter iRaw s < 2 ^ 12 :=
    (Nat.mod_lt _ (Nat.two_pow_pos _)).trans_le (Nat.pow_le_pow_right (by decide) (configLegal_width_le hl))
  rw [sampleNext_of_searching hr, baseline_eq_newBaseline, ← hwindow]
  exact searchStep_of_noMatch (s := s.setAmplitudeLast (newBaseline iRaw s))
    (fun h => hheader ((ofNat_eq_headerWord_iff hl hlt).mp (hwindow.symm.trans h)))
    (fun h => hinverse ((ofNat_eq_inverseHeader_iff hl hlt).mp (hwindow.symm.trans h)))

end

/-- Outside ignore-headers mode no slot is counted (10_state.md R28). -/
theorem State.Inv.slotsLeft_of_normal {s : State} (hs : s.Inv) (hi : s.ignoreHeaders = false) : s.slotsLeft = 0 := by
  have hcount := hs.slotsCounted
  rw [hi] at hcount
  have hzero : s.slotsLeft.toNat = 0 := by simpa using hcount
  exact BitVec.eq_of_toNat_eq hzero

/-! ### The samples left of ignore-headers mode (R146, 42_byte_assembler.md R162, R168) -/

theorem blindSamples_setAmplitudeLast (s : State) (v : Half) :
    blindSamples (s.setAmplitudeLast v) = blindSamples s := rfl

theorem blindSamples_setInput (s : State) (xs : List InputStep) : blindSamples (s.setInput xs) = blindSamples s := rfl

/-- While LOCKED no sample touches the window (R146). -/
theorem sampleNext_window_of_locked {s : State} (hr : s.isReadingHeader = false) (iRaw qRaw : Half) :
    (sampleNext iRaw qRaw s).window = s.window := by
  rw [sampleNext_of_locked hr]
  obtain ⟨hwindow, -⟩ := assembleStep_frame (sampleBit iRaw qRaw s)
    (s.setAmplitudeLast (baseline s.cfg (sampleAmplitude iRaw qRaw)))
  exact hwindow

/-- The end of a slot in ignore-headers mode leaves the samples of the other slots, and ends the mode if there is none
(42_byte_assembler.md R168). -/
theorem blindSamples_nextState {s : State} (hi : s.ignoreHeaders = true) (hr : s.isReadingHeader = false)
    (hcount : 1 ≤ s.slotsLeft.toNat) :
    blindSamples (nextState s) = (s.slotsLeft.toNat - 1) * s.cfg.ignoreSlotBits ∧
      ((nextState s).isReadingHeader = true ↔ s.slotsLeft.toNat = 1) := by
  have hsub : (s.slotsLeft - 1).toNat = s.slotsLeft.toNat - 1 := by bv_omega
  rcases nextState_cases s with ⟨-, h0, e⟩ | ⟨-, h0, e⟩ | ⟨hnormal, -⟩ | ⟨hnormal, -⟩
  · have hone : s.slotsLeft.toNat = 1 := by bv_omega
    simp [e, blindSamples, hone]
  · have hmore : s.slotsLeft.toNat ≠ 1 := by bv_omega
    rw [e, blindSamples, hsub]
    simp [hr, hmore]
  · simp [hi] at hnormal
  · simp [hi] at hnormal

section
variable {s : State} (hs : s.Inv)
include hs

theorem State.Inv.ignoring_of_blindSamples_pos (h : 0 < blindSamples s) : s.ignoreHeaders = true := by
  by_contra hi
  simp [blindSamples, hs.slotsLeft_of_normal (by simpa using hi)] at h

/-- The slots after the one being read, and what is left of that one. -/
theorem State.Inv.blindSamples_eq (hi : s.ignoreHeaders = true) : blindSamples s =
    (s.slotsLeft.toNat - 1) * s.cfg.ignoreSlotBits + (s.cfg.ignoreSlotBits - s.bitIndex.toNat) := by
  obtain ⟨n, hn⟩ := Nat.exists_eq_add_one.mpr (hs.slotsCounted.mpr hi)
  have hopen := hs.slotOpen
  rw [bitsNeeded_of_ignoring hi] at hopen
  rw [blindSamples, hn, Nat.succ_mul, Nat.add_sub_cancel]
  omega

theorem State.Inv.blindSamples_pos (hi : s.ignoreHeaders = true) : 0 < blindSamples s := by
  have hopen := hs.slotOpen
  rw [bitsNeeded_of_ignoring hi] at hopen
  rw [hs.blindSamples_eq hi]
  omega

variable (hl : configLegal s.cfg = true) (hi : s.ignoreHeaders = true)
include hl hi

/-- Each bit in ignore-headers mode uses up one sample of it, and the mode ends with the last one (R161, R168). -/
theorem blindSamples_assembleStep (bit : Bool) :
    blindSamples (assembleStep bit s) + 1 = blindSamples s ∧
      ((assembleStep bit s).isReadingHeader = true ↔ blindSamples (assembleStep bit s) = 0) := by
  have hr := hs.ignoreLocked hi
  have hcount := hs.slotsCounted.mpr hi
  rcases assembleStep_openSlot_cases hs hl bit with ⟨h, e⟩ | ⟨h, e⟩
  case inl =>
    have hnext : (assembleStep bit s).Inv := hs.assembleStep hl hr bit
    rw [e] at hnext ⊢
    have hpos := hnext.blindSamples_pos hi
    have hindex := bitIndex_succ_toNat hs hl
    simp only [blindSamples, State.setSlot_slotsLeft, State.setSlot_cfg, State.setSlot_bitIndex,
      State.setSlot_isReadingHeader, hindex, hr, Bool.false_eq_true, false_iff] at hpos ⊢
    omega
  case inr =>
    rw [bitsNeeded_of_ignoring hi] at h
    obtain ⟨hleft, hends⟩ := blindSamples_nextState (s := deliverByte (shiftByte s.tempByte bit) s)
      (by simpa using hi) (by simpa using hr) (by simpa using hcount)
    simp only [deliverByte_slotsLeft, deliverByte_cfg] at hleft hends
    rw [e, hends, hleft, hs.blindSamples_eq hi, Nat.mul_eq_zero]
    omega

theorem blindSamples_sampleNext (iRaw qRaw : Half) :
    blindSamples (sampleNext iRaw qRaw s) + 1 = blindSamples s ∧
      ((sampleNext iRaw qRaw s).isReadingHeader = true ↔ blindSamples (sampleNext iRaw qRaw s) = 0) := by
  have hbit := blindSamples_assembleStep (hs.setAmplitudeLast (baseline s.cfg (sampleAmplitude iRaw qRaw))) hl hi
    (sampleBit iRaw qRaw s)
  rwa [blindSamples_setAmplitudeLast, ← sampleNext_of_locked (hs.ignoreLocked hi)] at hbit

end

/-- A run over no more samples than are left of ignore-headers mode, from a state in the mode or right after it. -/
theorem runSteps_blindSamples {s : State} {xs : List (Half × Half)} {rest : List InputStep} (hs : s.Inv)
    (hl : configLegal s.cfg = true) (hmode : s.isReadingHeader = true ↔ blindSamples s = 0)
    (hle : xs.length ≤ blindSamples s)
    (hinput : s.input = stimulus s.cfg (xs.map fun x => .sample x.1 x.2) ++ rest) :
    ∃ t, runSteps xs.length s = .next t ∧ t.input = rest ∧ t.window = s.window ∧
      t.isSignalInverted = s.isSignalInverted ∧ (t.isReadingHeader = true ↔ xs.length = blindSamples s) := by
  induction xs generalizing s with
  | nil => exact ⟨s, rfl, hinput, rfl, rfl, hmode.trans eq_comm⟩
  | cons x xs ih =>
    rw [List.map_cons, stimulus_cons, List.cons_append] at hinput
    rw [List.length_cons] at hle ⊢
    set tail := stimulus s.cfg (xs.map fun x => .sample x.1 x.2) ++ rest
    have hi := hs.ignoring_of_blindSamples_pos (Nat.zero_lt_of_lt hle)
    have hr := hs.ignoreLocked hi
    obtain ⟨hleft, hends⟩ := blindSamples_sampleNext (hs.setInput tail) hl hi x.1 x.2
    rw [blindSamples_setInput] at hleft
    obtain ⟨t, hrun, hrest, hwindow, hinv, hlast⟩ := ih ((hs.setInput tail).sampleNext hl x.1 x.2)
      (by simpa using hl) hends (by omega) (by rw [sampleNext_input, sampleNext_cfg]; rfl)
    refine ⟨t, (runSteps_succ_of_next _ (step_of_sample hl hinput)).trans hrun, hrest, ?_, ?_,
      hlast.trans (by omega)⟩
    · exact hwindow.trans (sampleNext_window_of_locked (s := s.setInput tail) hr x.1 x.2)
    · exact hinv.trans (sampleNext_isSignalInverted (s := s.setInput tail) hr x.1 x.2)

end Sys2Proof.Machine

namespace Sys2Proof

open Sys2Proof.Machine

/-- Settles O40: each sample uses up one of those left, and the mode ends with the last one. -/
theorem ignoreModeLastsItsSlots : Obligations.IgnoreModeLastsItsSlots := by
  intro s xs rest hs hl hi hle hinput
  have hmode : s.isReadingHeader = true ↔ blindSamples s = 0 := by
    simp [hs.ignoreLocked hi, (hs.blindSamples_pos hi).ne']
  exact runSteps_blindSamples hs hl hmode hle hinput

/-- Settles O19, by the pattern that the shifted window completes. -/
theorem searchStepShiftsAndCompares : Obligations.SearchStepShiftsAndCompares := by
  intro iRaw qRaw s hl hr
  refine ⟨fun h => ?header, fun h => ?inverse, fun ⟨hheader, hinverse⟩ => ?noMatch, fun hs => ?idle⟩
  case header =>
    exact congrArg Host.Outcome.next (sampleNext_of_headerPattern (inv := false) hl hr iRaw qRaw h)
  case inverse =>
    exact congrArg Host.Outcome.next (sampleNext_of_headerPattern (inv := true) hl hr iRaw qRaw h)
  case noMatch =>
    exact congrArg Host.Outcome.next (sampleNext_of_noHeaderPattern hl hr iRaw qRaw hheader hinverse)
  case idle =>
    have hi := hs.normal_of_searching hr
    exact ⟨hi, hs.slotsLeft_of_normal hi⟩

end Sys2Proof

/-!
PROOFS about the byte assembler (42_byte_assembler.md): what its capacity can change, the sample that completes a byte,
and the sync matcher.
-/

namespace Sys2Proof.Machine

/-! ### What does not look at the buffer -/

/-- `s` with the buffer, what is known of its filling, and its capacity replaced. -/
def State.rebuffer (s : State) (m : Memory) (n : Nat) (dropped : Bool) (cap : Nat) : State :=
  { s with dataout := m, dataoutIndex := n, overflow := dropped, cfg := { s.cfg with dataoutCapacity := cap } }

/-- The operation neither looks at the buffer nor changes it. -/
def BufferBlind (f : State → State) : Prop :=
  ∀ s m n dropped cap, f (s.rebuffer m n dropped cap) = (f s).rebuffer m n dropped cap

theorem setAmplitudeLast_bufferBlind (v : Half) : BufferBlind (State.setAmplitudeLast · v) := fun _ _ _ _ _ => rfl

theorem setSlot_bufferBlind (t : Byte) (k : BitVec 5) : BufferBlind (State.setSlot · t k) := fun _ _ _ _ _ => rfl

theorem matchSync_bufferBlind (b : Byte) : BufferBlind (matchSync b) := fun _ _ _ _ _ => rfl

theorem nextState_bufferBlind : BufferBlind nextState := by
  intro s m n dropped cap
  simp only [nextState, apply_ite (State.rebuffer · m n dropped cap)]
  rfl

theorem searchStep_bufferBlind (bit : Bool) : BufferBlind (searchStep bit) := by
  intro s m n dropped cap
  simp only [searchStep, apply_ite (State.rebuffer · m n dropped cap)]
  rfl

/-- A state is itself with its own buffer, so a blind operation leaves the buffer as it is. -/
theorem BufferBlind.eq_rebuffer {f : State → State} (hf : BufferBlind f) (s : State) :
    f s = (f s).rebuffer s.dataout s.dataoutIndex s.overflow s.cfg.dataoutCapacity :=
  hf s s.dataout s.dataoutIndex s.overflow s.cfg.dataoutCapacity

/-! ### Two capacities side by side (R166, R173) -/

section
variable {s u : State} (h : TruncationOf s u)
include h

theorem TruncationOf.eq_rebuffer : u = s.rebuffer u.dataout u.dataoutIndex u.overflow u.cfg.dataoutCapacity := h.rest

theorem TruncationOf.bufferBlind {f : State → State} (hf : BufferBlind f) : TruncationOf (f s) (f u) := by
  have hu : f u = (f s).rebuffer u.dataout u.dataoutIndex u.overflow u.cfg.dataoutCapacity := by
    rw [← hf, ← h.eq_rebuffer]
  have hs := hf.eq_rebuffer s
  rw [hu, hs]
  exact ⟨rfl, h.index, h.bytes, h.dropped⟩

/-- One more byte, which finds room in the larger buffer: the smaller one stores it beside the larger, or is full and
drops it. -/
theorem TruncationOf.append (hroom : u.dataoutIndex < u.cfg.dataoutCapacity) (o : Byte) :
    TruncationOf (append s o) (append u o) := by
  have hindex := h.index
  have hu : Machine.append u o = u.storeByte o := if_pos hroom
  rw [hu]
  rcases append_cases s o with ⟨hlt, e⟩ | ⟨hge, e⟩ <;> rw [e]
  case inl =>
    have hsame : s.dataoutIndex = u.dataoutIndex := by omega
    refine ⟨?rest, ?index, fun k hk => ?bytes, ?dropped⟩
    case rest => rw [h.rest]; rfl
    case index => simp only [State.storeByte_dataoutIndex, State.storeByte_cfg]; omega
    case bytes =>
      rw [State.storeByte_dataoutIndex] at hk
      rw [State.storeByte_dataout, State.storeByte_dataout, ← hsame]
      by_cases hnew : k = s.dataoutIndex
      · rw [hnew, memLookup_memWrite_self, memLookup_memWrite_self]
      · rw [memLookup_memWrite_of_ne _ _ hnew, memLookup_memWrite_of_ne _ _ hnew]
        exact h.bytes k (by omega)
    case dropped =>
      rw [State.storeByte_overflow, State.storeByte_dataoutIndex, State.storeByte_cfg, h.dropped]
      exact decide_eq_decide.mpr (by omega)
  case inr =>
    refine ⟨?rest, ?index, fun k hk => ?bytes, ?dropped⟩
    case rest => rw [h.rest]; rfl
    case index =>
      simp only [State.markOverflow_dataoutIndex, State.markOverflow_cfg, State.storeByte_dataoutIndex]; omega
    case bytes =>
      rw [State.markOverflow_dataoutIndex] at hk
      rw [State.markOverflow_dataout, State.storeByte_dataout, memLookup_memWrite_of_ne _ _ (by omega)]
      exact h.bytes k hk
    case dropped =>
      rw [State.markOverflow_overflow, State.markOverflow_cfg, State.storeByte_dataoutIndex]
      exact (decide_eq_true (by omega)).symm

theorem TruncationOf.appendAll {out : List Byte} (hroom : u.dataoutIndex + out.length ≤ u.cfg.dataoutCapacity) :
    TruncationOf (appendAll s out) (appendAll u out) := by
  induction out generalizing s u with
  | nil => exact h
  | cons o out ih =>
    rw [List.length_cons] at hroom
    have hlt : u.dataoutIndex < u.cfg.dataoutCapacity := by omega
    have hu : Machine.append u o = u.storeByte o := if_pos hlt
    refine ih (h.append hlt o) ?_
    rw [hu, State.storeByte_dataoutIndex, State.storeByte_cfg]
    omega

variable (hroom : u.dataoutIndex + 2 ≤ u.cfg.dataoutCapacity)
include hroom

/-- The output bytes of a completed byte do not depend on the capacity, and there are at most two (R164). -/
theorem TruncationOf.deliverByte (b : Byte) : TruncationOf (deliverByte b s) (deliverByte b u) := by
  have hescape : escape u.cfg b = escape s.cfg b := by rw [h.rest]; rfl
  have hlen : (escape u.cfg b).length ≤ 2 := by
    rcases escape_cases u.cfg b with ⟨-, e⟩ | ⟨-, e⟩ <;> simp [e]
  rw [Machine.deliverByte, Machine.deliverByte, hescape]
  exact (h.appendAll (by rw [← hescape]; omega)).bufferBlind (matchSync_bufferBlind b)

theorem TruncationOf.assembleStep (bit : Bool) : TruncationOf (assembleStep bit s) (assembleStep bit u) := by
  have hbyte : u.tempByte = s.tempByte := by rw [h.rest]
  have hindex : u.bitIndex = s.bitIndex := by rw [h.rest]
  have hneeded : bitsNeeded u = bitsNeeded s := by rw [h.rest]; rfl
  rcases assembleStep_cases bit s with ⟨hs, es⟩ | ⟨hs, es⟩ <;>
    rcases assembleStep_cases bit u with ⟨hu, eu⟩ | ⟨hu, eu⟩ <;> rw [hindex, hneeded] at hu
  · rw [es, eu, completeByte_setSlot, completeByte_setSlot, hbyte]
    exact (h.deliverByte hroom _).bufferBlind nextState_bufferBlind
  · exact absurd hs hu
  · exact absurd hu hs
  · rw [es, eu, hbyte, hindex]
    exact h.bufferBlind (setSlot_bufferBlind _ _)

theorem TruncationOf.sampleNext (iRaw qRaw : Half) :
    TruncationOf (sampleNext iRaw qRaw s) (sampleNext iRaw qRaw u) := by
  have hbit : sampleBit iRaw qRaw u = sampleBit iRaw qRaw s := by rw [h.rest]; rfl
  have hphase : u.isReadingHeader = s.isReadingHeader := by rw [h.rest]
  have hbase : baseline u.cfg (sampleAmplitude iRaw qRaw) = baseline s.cfg (sampleAmplitude iRaw qRaw) := by
    rw [h.rest]; rfl
  have hnext := h.bufferBlind (setAmplitudeLast_bufferBlind (baseline s.cfg (sampleAmplitude iRaw qRaw)))
  cases hr : s.isReadingHeader with
  | true =>
    rw [sampleNext_of_searching hr, sampleNext_of_searching (hphase.trans hr), hbit, hbase]
    exact hnext.bufferBlind (searchStep_bufferBlind _)
  | false =>
    rw [sampleNext_of_locked hr, sampleNext_of_locked (hphase.trans hr), hbit, hbase]
    exact hnext.assembleStep hroom _

end

end Sys2Proof.Machine

namespace Sys2Proof

open Sys2Proof.Machine

/-- Settles O39: only the appends look at the capacity, and a sample appends at most two bytes. -/
theorem capacityOnlyTruncates : Obligations.CapacityOnlyTruncates := fun s u iRaw qRaw h hroom =>
  ⟨_, _, exec_sample iRaw qRaw s, exec_sample iRaw qRaw u, h.sampleNext hroom iRaw qRaw⟩

end Sys2Proof

namespace Sys2Proof.Machine

/-! ### The sample that completes a byte (R163 to R168) -/

/-- The output bytes as the rules tell them apart (R164, R165). -/
theorem eq_escape {c : Config} {b : Byte} {out : List Byte}
    (hpair : c.escapeEnable = true ∧ reservedByte c b → out = [c.escMarker, b ^^^ c.escXor])
    (hplain : ¬(c.escapeEnable = true ∧ reservedByte c b) → out = [b]) : out = escape c b := by
  rw [← needsEscape_iff, ← Bool.and_eq_true] at hpair hplain
  rcases escape_cases c b with ⟨h, e⟩ | ⟨h, e⟩ <;> rw [e]
  · exact hpair h
  · exact hplain (Bool.eq_false_iff.mp h)

/-- The marker flag as the rule says it (R167). -/
theorem foundAfter_eq (s : State) (b : Byte) :
    foundAfter s b = (s.sqanHeaderFound || decide (s.matchIdx = 1 ∧ b = s.cfg.syncMarker1)) := by
  by_cases h : s.matchIdx = 1
  · cases hf : s.sqanHeaderFound <;> simp [foundAfter, markerByteMatches, syncMarker, h, hf]
  · simp [foundAfter, h]

/-- The marker index as the rule says it (R167). -/
theorem matchIdxAfter_eq (s : State) (b : Byte) :
    matchIdxAfter s b = if s.matchIdx = 0 ∧ b = s.cfg.syncMarker0 then 1 else 0 := by
  by_cases h : s.matchIdx = 0 <;> simp [matchIdxAfter, markerByteMatches, syncMarker, h]

section
variable (b : Byte) (s : State)

@[simp] theorem deliverByte_dataout : (deliverByte b s).dataout = (appendAll s (escape s.cfg b)).dataout := rfl
@[simp] theorem deliverByte_dataoutIndex :
    (deliverByte b s).dataoutIndex = (appendAll s (escape s.cfg b)).dataoutIndex := rfl
@[simp] theorem deliverByte_overflow : (deliverByte b s).overflow = (appendAll s (escape s.cfg b)).overflow := rfl
@[simp] theorem deliverByte_sqanHeaderFound : (deliverByte b s).sqanHeaderFound =
    (s.sqanHeaderFound || decide (s.matchIdx = 1 ∧ b = s.cfg.syncMarker1)) :=
  (foundAfter_appendAll s (escape s.cfg b) b).trans (foundAfter_eq s b)
@[simp] theorem deliverByte_matchIdx : (deliverByte b s).matchIdx =
    if s.matchIdx = 0 ∧ b = s.cfg.syncMarker0 then 1 else 0 :=
  (matchIdxAfter_appendAll s (escape s.cfg b) b).trans (matchIdxAfter_eq s b)
@[simp] theorem deliverByte_window : (deliverByte b s).window = s.window := by simp [deliverByte, matchSync]
@[simp] theorem deliverByte_isSignalInverted : (deliverByte b s).isSignalInverted = s.isSignalInverted := by
  simp [deliverByte, matchSync]
@[simp] theorem deliverByte_input : (deliverByte b s).input = s.input := by simp [deliverByte, matchSync]
@[simp] theorem deliverByte_flushes : (deliverByte b s).flushes = s.flushes := by simp [deliverByte, matchSync]

theorem deliverByte_setAmplitudeLast (v : Half) :
    deliverByte b (s.setAmplitudeLast v) = (deliverByte b s).setAmplitudeLast v := by
  rw [deliverByte, appendAll_setAmplitudeLast]; rfl

end

/-- The next-state decision of a LOCKED block (R168). -/
theorem nextState_of_locked {s : State} (hl : configLegal s.cfg = true) (hr : s.isReadingHeader = false) :
    if s.ignoreHeaders = true then
      if s.slotsLeft = 1 then
        (nextState s).slotsLeft = 0 ∧ (nextState s).ignoreHeaders = false ∧ (nextState s).isReadingHeader = true
      else (nextState s).slotsLeft = s.slotsLeft - 1 ∧ (nextState s).ignoreHeaders = true ∧
        (nextState s).isReadingHeader = false
    else if s.cfg.byteTiming = true ∧ s.sqanHeaderFound = true ∧ 0 < s.cfg.timingInterval then
      (nextState s).slotsLeft.toNat = s.cfg.timingInterval ∧ (nextState s).ignoreHeaders = true ∧
        (nextState s).isReadingHeader = false
    else (nextState s).slotsLeft = s.slotsLeft ∧ (nextState s).ignoreHeaders = false ∧
      (nextState s).isReadingHeader = true := by
  obtain ⟨-, -, -, -, -, -, -, hinterval, -⟩ := configLegal_spec hl
  rcases nextState_cases s with ⟨hi, h0, e⟩ | ⟨hi, h0, e⟩ | ⟨hi, ht, hf, hp, e⟩ | ⟨hi, hn, e⟩ <;> rw [e]
  · have hlast : s.slotsLeft = 1 := by bv_omega
    simp [hi, hlast]
  · have hmore : s.slotsLeft ≠ 1 := by bv_omega
    rw [if_pos hi, if_neg hmore]
    exact ⟨rfl, hi, hr⟩
  · rw [if_neg (by simp [hi]), if_pos ⟨ht, hf, hp⟩]
    exact ⟨Nat.mod_eq_of_lt (Nat.lt_succ_of_le hinterval), rfl, hr⟩
  · rw [if_neg (by simp [hi]), if_neg hn]
    exact ⟨rfl, hi, rfl⟩

/-- The sample that ends a slot delivers its byte and decides what follows, in any state: a legal slot length cannot
wrap the count (R161, R163). -/
theorem sampleNext_of_lastOfSlot {s : State} (hl : configLegal s.cfg = true) (hlast : lastOfSlot s)
    (iRaw qRaw : Half) : sampleNext iRaw qRaw s =
      nextState ((deliverByte (slotByte iRaw s) s).setAmplitudeLast (newBaseline iRaw s)) := by
  obtain ⟨hr, hindex⟩ := hlast
  have hcount : s.bitIndex.toNat + 1 = bitsNeeded s := hindex
  obtain ⟨-, hle⟩ := bitsNeeded_bounds hl
  rw [sampleNext_of_locked hr, sampleBit_of_locked hr, baseline_eq_newBaseline]
  rcases assembleStep_cases (lockedBit iRaw s) (s.setAmplitudeLast (newBaseline iRaw s)) with ⟨-, e⟩ | ⟨hopen, -⟩
  · rw [e, completeByte_setSlot, State.setAmplitudeLast_tempByte, shiftByte_lockedBit, deliverByte_setAmplitudeLast]
  · have hneeded : bitsNeeded (s.setAmplitudeLast (newBaseline iRaw s)) = bitsNeeded s := rfl
    rw [hneeded, State.setAmplitudeLast_bitIndex] at hopen
    bv_omega

end Sys2Proof.Machine

namespace Sys2Proof

open Sys2Proof.Machine

/-- Settles O23: the completing sample is a delivery and a next-state decision, and each register is written by one of
the two at most. -/
theorem byteCompletionRunsFourSteps : Obligations.ByteCompletionRunsFourSteps := by
  intro iRaw qRaw s b out hl hlast hroom hb hpair hplain
  obtain rfl : out = escape s.cfg b := eq_escape hpair hplain
  have hexec : exec (.sample iRaw qRaw) s =
      .next (nextState ((deliverByte b s).setAmplitudeLast (newBaseline iRaw s))) := by
    rw [exec_sample, sampleNext_of_lastOfSlot hl hlast, ← hb]
  have hnext := nextState_of_locked (s := (deliverByte b s).setAmplitudeLast (newBaseline iRaw s)) (by simpa using hl)
    (by simpa using hlast.1)
  refine ⟨_, hexec, fun k hk hcap => ?stored, fun k hk => ?kept, ?index, ?overflow, ?found, ?matcher,
    nextState_bitIndex _, nextState_tempByte _, by simpa using hnext, ?frame⟩
  case stored =>
    simp only [nextState_dataout, State.setAmplitudeLast_dataout, deliverByte_dataout, appendAll_memLookup]
    rw [if_pos (by omega), Nat.add_sub_cancel_left, List.getElem?_eq_getElem hk]
  case kept =>
    simp only [nextState_dataout, State.setAmplitudeLast_dataout, deliverByte_dataout, appendAll_memLookup]
    rw [if_neg (by omega)]
  case index => simpa using appendAll_dataoutIndex hroom (escape s.cfg b)
  case overflow => simpa using appendAll_overflow hroom (escape s.cfg b)
  case found => rw [nextState_sqanHeaderFound, State.setAmplitudeLast_sqanHeaderFound, deliverByte_sqanHeaderFound]
  case matcher => rw [nextState_matchIdx, State.setAmplitudeLast_matchIdx, deliverByte_matchIdx]
  case frame => simp

end Sys2Proof

namespace Sys2Proof.Machine

/-! ### The sync matcher (R167) -/

/-- What the matcher has taken in of a marker that is not complete. -/
def pendingMarker (s : State) : List Byte := if s.matchIdx = 1 then [s.cfg.syncMarker0] else []

/-- A scan passes a byte that does not begin the marker. -/
theorem naiveFound_of_ne {s0 b : Byte} (h : b ≠ s0) (s1 : Byte) (bytes : List Byte) :
    naiveFound s0 s1 (b :: bytes) = naiveFound s0 s1 bytes := by
  cases bytes <;> simp [naiveFound, h]

/-- The byte after a first marker byte completes the marker or is passed over (70_reset_and_hazards.md R262). -/
theorem naiveFound_first_cons (s0 s1 b : Byte) (bytes : List Byte) :
    naiveFound s0 s1 (s0 :: b :: bytes) = (decide (b = s1) || naiveFound s0 s1 bytes) := by
  simp [naiveFound]

/-- A byte moves on from the scan what the matcher has taken in: into the flag, or into the pending part. -/
theorem matchSync_naiveFound (s : State) (b : Byte) (bytes : List Byte) :
    ((matchSync b s).sqanHeaderFound ||
        naiveFound s.cfg.syncMarker0 s.cfg.syncMarker1 (pendingMarker (matchSync b s) ++ bytes)) =
      (s.sqanHeaderFound || naiveFound s.cfg.syncMarker0 s.cfg.syncMarker1 (pendingMarker s ++ b :: bytes)) := by
  simp only [pendingMarker, matchSync, State.setMatcher_sqanHeaderFound, State.setMatcher_matchIdx,
    State.setMatcher_cfg, foundAfter_eq, matchIdxAfter_eq]
  by_cases hpending : s.matchIdx = 1
  · simp [hpending, naiveFound_first_cons, Bool.or_assoc]
  · have hstart : s.matchIdx = 0 := by omega
    by_cases hb : b = s.cfg.syncMarker0
    · simp [hstart, hb]
    · simp [hstart, hb, naiveFound_of_ne hb]

/-- From any state the matcher finds what a scan finds in its pending part and the bytes to come. -/
theorem foldl_matchSync_sqanHeaderFound (s : State) (bytes : List Byte) :
    (bytes.foldl (fun u b => matchSync b u) s).sqanHeaderFound =
      (s.sqanHeaderFound || naiveFound s.cfg.syncMarker0 s.cfg.syncMarker1 (pendingMarker s ++ bytes)) := by
  induction bytes generalizing s with
  | nil =>
    rw [pendingMarker]
    split <;> simp [naiveFound]
  | cons b bytes ih =>
    rw [List.foldl_cons, ih]
    exact matchSync_naiveFound s b bytes

end Sys2Proof.Machine

namespace Sys2Proof

open Sys2Proof.Machine

/-- Settles O25: a cleared matcher has nothing pending. -/
theorem matcherIsNaive : Obligations.MatcherIsNaive := by
  intro s bytes hstart hcleared
  have hscan (bytes : List Byte) : (bytes.foldl (fun u b => matchSync b u) s).sqanHeaderFound =
      naiveFound s.cfg.syncMarker0 s.cfg.syncMarker1 bytes := by
    rw [foldl_matchSync_sqanHeaderFound, hcleared, pendingMarker, if_neg (by simp [hstart])]
    simp
  refine ⟨hscan bytes, fun hne => ?_⟩
  rw [hscan, naiveFound_first_cons, decide_eq_false hne]
  rfl

end Sys2Proof

/-!
PROOFS about the scan control (43_scan_control.md): what a `SCAN_END` hands over, how many records a run produces, and
that a `NOP` can be left out of a run.
-/

namespace Sys2Proof.Machine

/-! ### The record of a scan (R202, R203) -/

theorem emitCondition_eq (s : State) : emitCondition s =
    decide (0 < s.dataoutIndex ∧ (s.cfg.screenForHeader = false ∨ s.sqanHeaderFound = true)) := by
  cases hscreen : s.cfg.screenForHeader <;> simp [emitCondition, hscreen]

/-- An operation that answers adds one record if it is a `SCAN_END`, and none otherwise. -/
theorem exec_next_records {i : Instr} {s t : State} (h : exec i s = .next t) :
    ∃ rs, t.flushes = s.flushes ++ rs ∧ rs.length = if i = .scanEnd then 1 else 0 := by
  rcases exec_next_cases h with ⟨rfl, rfl⟩ | ⟨iRaw, qRaw, rfl, rfl⟩ | ⟨rfl, bytes, -, rfl⟩
  · exact ⟨[], by simp⟩
  · exact ⟨[], by simp⟩
  · exact ⟨[flushRecord s bytes], by simp⟩

theorem isScanEnd_iff (x : InputStep) : isScanEnd x = true ↔ x.rst = false ∧ decode x.word = .scanEnd := by
  simp [isScanEnd]

/-- A step that answers adds one record if its item presents a `SCAN_END`, and none otherwise: a reset produces none
(70_reset_and_hazards.md R250). -/
theorem step_next_records {s t : State} {x : InputStep} {rest : List InputStep} (hinput : s.input = x :: rest)
    (h : step s = .next t) : ∃ rs, t.flushes = s.flushes ++ rs ∧ rs.length = if isScanEnd x = true then 1 else 0 := by
  obtain ⟨y, tail, hy, hstep⟩ := step_next_cases h
  obtain ⟨rfl, rfl⟩ : x = y ∧ rest = tail := by simpa using hinput.symm.trans hy
  rcases hstep with ⟨hrst, rfl⟩ | ⟨hrst, -, -, hexec⟩
  · exact ⟨[], by simp [resetStep, isScanEnd_iff, hrst]⟩
  · simp only [isScanEnd_iff, hrst, true_and]
    exact exec_next_records (s := s.setInput rest) hexec

/-! ### Streams the environment may present (30_encoding.md R82, R93) -/

/-- What a legal stream asks of one item while configuration `c` is in force. -/
def itemLegal (c : Config) (x : InputStep) : Prop :=
  x.rst = false → x.cfg = c ∧ configLegal c = true ∧ (decode x.word).wellFormed = true

/-- A step that answers leaves the configuration of its item in force (`step_next_cfg_input`), so this is the one the
rest of a legal stream is read under. -/
theorem inputLegal_cons {c : Config} {x : InputStep} {xs : List InputStep} :
    inputLegal c (x :: xs) = true ↔ itemLegal c x ∧ inputLegal x.cfg xs = true := by
  cases hrst : x.rst with
  | true => simp [inputLegal, itemLegal, hrst]
  | false =>
    simp only [inputLegal, itemLegal, hrst, Bool.false_eq_true, if_false, Bool.and_eq_true, decide_eq_true_eq,
      forall_const]
    constructor
    · rintro ⟨⟨⟨rfl, hl⟩, hword⟩, hxs⟩
      exact ⟨⟨rfl, hl, hword⟩, hxs⟩
    · rintro ⟨⟨rfl, hl, hword⟩, hxs⟩
      exact ⟨⟨⟨rfl, hl⟩, hword⟩, hxs⟩

theorem step_total_of_itemLegal {s : State} {x : InputStep} {rest : List InputStep} (hs : s.Inv)
    (hinput : s.input = x :: rest) (hx : itemLegal s.cfg x) : ∃ t, step s = .next t := by
  cases hrst : x.rst with
  | true => exact ⟨_, step_of_rst hinput hrst⟩
  | false =>
    obtain ⟨hcfg, hl, hword⟩ := hx hrst
    rw [step_of_word hinput hrst hcfg hl]
    exact exec_total hword (hs.setInput rest)

/-- A run over a legal stream uses it up and adds one record for each `SCAN_END` in it. -/
theorem runSteps_of_inputLegal {s : State} {xs : List InputStep} (hs : s.Inv) (hinput : s.input = xs)
    (hlegal : inputLegal s.cfg xs = true) : ∃ (t : State) (rs : List FlushRecord), runSteps xs.length s = .next t ∧
      t.Inv ∧ t.input = [] ∧ t.flushes = s.flushes ++ rs ∧ rs.length = xs.countP isScanEnd := by
  induction xs generalizing s with
  | nil => exact ⟨s, [], runSteps_zero s, hs, hinput, (List.append_nil _).symm, rfl⟩
  | cons x xs ih =>
    obtain ⟨hx, hxs⟩ := inputLegal_cons.mp hlegal
    obtain ⟨u, hstep⟩ := step_total_of_itemLegal hs hinput hx
    obtain ⟨hcfg, hrest⟩ := step_next_cfg_input hinput hstep
    obtain ⟨first, hfirst, hfirstLength⟩ := step_next_records hinput hstep
    obtain ⟨t, later, hrun, ht, hused, hlater, hlaterLength⟩ :=
      ih (stepKeepsInvariants s u hs hstep) hrest (hcfg.symm ▸ hxs)
    refine ⟨t, first ++ later, (runSteps_succ_of_next _ hstep).trans hrun, ht, hused, ?records, ?count⟩
    case records => rw [hlater, hfirst, List.append_assoc]
    case count => rw [List.length_append, hfirstLength, hlaterLength, List.countP_cons, Nat.add_comm]

/-! ### The outcome of an operation and the input after it -/

/-- The outcome with another input still to come in the next state, if there is one. -/
def withInput (xs : List InputStep) : Host.Outcome State Fault Refusal → Host.Outcome State Fault Refusal
  | .next t => .next (t.setInput xs)
  | .fault f => .fault f
  | .refused r => .refused r

theorem exec_scanEnd_of_error {s : State} {f : Fault} (h : readCells s.cfg s.dataout s.dataoutIndex = .error f) :
    exec .scanEnd s = .fault f := by
  simp [exec, execScanEnd, h]

/-- No operation looks at the input still to come, whether it answers or stops. -/
theorem exec_setInput (i : Instr) (s : State) (xs : List InputStep) :
    exec i (s.setInput xs) = withInput xs (exec i s) := by
  cases i with
  | nop => rfl
  | sample iRaw qRaw => exact congrArg Host.Outcome.next (sampleNext_setInput iRaw qRaw s xs)
  | scanEnd =>
    rcases exec_scanEnd_cases s with ⟨bytes, hbytes, e⟩ | ⟨f, hfault, e⟩ <;> rw [e]
    · exact exec_scanEnd_of_ok (s := s.setInput xs) hbytes
    · exact exec_scanEnd_of_error (s := s.setInput xs) hfault
  | reserved3 => rfl

/-- A step looks at its own item of the input and passes on the rest. -/
theorem step_setInput_cons {s : State} {x : InputStep} (hx : itemLegal s.cfg x) (xs : List InputStep) :
    step (s.setInput (x :: xs)) = withInput xs (step (s.setInput [x])) := by
  cases hrst : x.rst with
  | true => rw [step_of_rst rfl hrst, step_of_rst rfl hrst]; rfl
  | false =>
    obtain ⟨hcfg, hl, -⟩ := hx hrst
    have hword (ys : List InputStep) : step (s.setInput (x :: ys)) = withInput ys (exec (decode x.word) s) :=
      (step_of_word (s := s.setInput (x :: ys)) rfl hrst hcfg hl).trans (exec_setInput _ s ys)
    rw [hword, hword]
    cases exec (decode x.word) s <;> rfl

/-! ### Runs without their `NOP`s (R200) -/

theorem isNop_iff (x : InputStep) : isNop x = true ↔ x.rst = false ∧ decode x.word = .nop := by simp [isNop]

theorem step_of_isNop {s : State} {x : InputStep} (hx : itemLegal s.cfg x) (hnop : isNop x = true)
    (xs : List InputStep) : step (s.setInput (x :: xs)) = .next (s.setInput xs) := by
  obtain ⟨hrst, hdecode⟩ := (isNop_iff x).mp hnop
  obtain ⟨hcfg, hl, -⟩ := hx hrst
  rw [step_of_word (s := s.setInput (x :: xs)) rfl hrst hcfg hl, hdecode]
  rfl

/-- Two streams with the same outcomes after a legal item have the same outcome with the item before them. -/
theorem runSteps_setInput_cons_congr {s : State} {x : InputStep} {xs ys : List InputStep} (hx : itemLegal s.cfg x)
    (h : ∀ t : State, t.cfg = x.cfg → runSteps xs.length (t.setInput xs) = runSteps ys.length (t.setInput ys)) :
    runSteps (x :: xs).length (s.setInput (x :: xs)) = runSteps (x :: ys).length (s.setInput (x :: ys)) := by
  have hxs := step_setInput_cons hx xs
  have hys := step_setInput_cons hx ys
  rw [List.length_cons, List.length_cons]
  cases hstep : step (s.setInput [x]) with
  | next t =>
    rw [hstep] at hxs hys
    obtain ⟨hcfg, -⟩ := step_next_cfg_input (s := s.setInput [x]) rfl hstep
    rw [runSteps_succ_of_next _ hxs, runSteps_succ_of_next _ hys, h t hcfg]
  | fault f =>
    rw [hstep] at hxs hys
    rw [runSteps_succ_of_fault _ hxs, runSteps_succ_of_fault _ hys]
  | refused r =>
    rw [hstep] at hxs hys
    rw [runSteps_succ_of_refused _ hxs, runSteps_succ_of_refused _ hys]

theorem runSteps_filter_isNop {s : State} {xs : List InputStep} (hlegal : inputLegal s.cfg xs = true) :
    runSteps xs.length (s.setInput xs) =
      runSteps (xs.filter fun x => !isNop x).length (s.setInput (xs.filter fun x => !isNop x)) := by
  induction xs generalizing s with
  | nil => rfl
  | cons x xs ih =>
    obtain ⟨hx, hxs⟩ := inputLegal_cons.mp hlegal
    cases hnop : isNop x with
    | true =>
      obtain ⟨hrst, -⟩ := (isNop_iff x).mp hnop
      obtain ⟨hcfg, -⟩ := hx hrst
      rw [List.filter_cons_of_neg (by simp [hnop]), List.length_cons,
        runSteps_succ_of_next _ (step_of_isNop hx hnop xs)]
      exact ih (hcfg ▸ hxs)
    | false =>
      rw [List.filter_cons_of_pos (by simp [hnop])]
      exact runSteps_setInput_cons_congr hx fun t hcfg => ih (hcfg.symm ▸ hxs)

end Sys2Proof.Machine

namespace Sys2Proof

open Sys2Proof.Machine

/-- Settles O33, by induction on the stream. -/
theorem legalRunCompletes : Obligations.LegalRunCompletes := fun _ hs hlegal => runSteps_of_inputLegal hs rfl hlegal

/-- Settles O34: a `NOP` uses up its item and nothing else, and no other item is told what follows it. -/
theorem nopsCanBeLeftOut : Obligations.NopsCanBeLeftOut := fun _ hlegal => runSteps_filter_isNop hlegal

/-- Settles O27: the record is the one of the bytes a flush reads. -/
theorem scanEndHandsOver : Obligations.ScanEndHandsOver := by
  refine ⟨fun _ => decode_of_cmd_scanEnd, fun s hinside hwritten => ?record, fun i s t hi h => ?others⟩
  case record =>
    obtain ⟨bytes, hbytes⟩ := readCells_total hinside hwritten
    obtain ⟨hlen, hcell⟩ := (readCells_ok_iff _ _ _ _).mp hbytes
    refine ⟨bytes, hlen, fun k hk => (hcell k hk).2, ?_⟩
    rw [exec_scanEnd_of_ok hbytes, flushRecord, emitCondition_eq]
    rfl
  case others =>
    obtain ⟨rs, hflushes, hlength⟩ := exec_next_records h
    rw [if_neg hi] at hlength
    rw [hflushes, List.eq_nil_of_length_eq_zero hlength, List.append_nil]

/-- Settles O4. -/
theorem nopChangesNothing : Obligations.NopChangesNothing := fun _ s hcmd =>
  ⟨decode_of_cmd_nop hcmd, by rw [decode_of_cmd_nop hcmd, exec_nop]⟩

end Sys2Proof

/-!
PROOFS about the exceptions (60_exceptions.md): every reason a step can be refused for, and the end of the run.
-/

namespace Sys2Proof.Machine

/-- The end of the input stream is looked at before anything else (R231; log entry 8). -/
theorem step_of_no_input {s : State} (hinput : s.input = []) : step s = .refused .endOfInput := by
  simp [step, fetch, hinput]

/-- No operation but the reserved one is refused (R220, 30_encoding.md R82). -/
theorem exec_refused_iff {i : Instr} {s : State} {r : Refusal} :
    exec i s = .refused r ↔ i = .reserved3 ∧ r = .reservedOperation := by
  cases i with
  | nop => simp
  | sample iRaw qRaw => simp
  | scanEnd => rcases exec_scanEnd_cases s with ⟨bytes, -, e⟩ | ⟨f, -, e⟩ <;> simp [e]
  | reserved3 => simp [eq_comm]

/-- Everything a refused step can be refused for, in the order of the checks. -/
theorem step_refused_cases {s : State} {r : Refusal} (h : step s = .refused r) :
    (s.input = [] ∧ r = .endOfInput) ∨
    ∃ x rest, s.input = x :: rest ∧ x.rst = false ∧
      ((x.cfg ≠ s.cfg ∧ r = .configurationChanged) ∨
       (x.cfg = s.cfg ∧ configLegal s.cfg = false ∧ r = .illegalConfiguration) ∨
       (x.cfg = s.cfg ∧ configLegal s.cfg = true ∧ decode x.word = .reserved3 ∧ r = .reservedOperation)) := by
  cases hinput : s.input with
  | nil =>
    rw [step_of_no_input hinput] at h
    cases h
    exact .inl ⟨rfl, rfl⟩
  | cons x rest =>
    cases hrst : x.rst with
    | true =>
      rw [step_of_rst hinput hrst] at h
      cases h
    | false =>
      refine .inr ⟨x, rest, rfl, hrst, ?_⟩
      by_cases hcfg : x.cfg = s.cfg
      · cases hl : configLegal s.cfg with
        | false =>
          rw [step_of_illegal_cfg hinput hrst hcfg hl] at h
          cases h
          exact .inr (.inl ⟨hcfg, rfl, rfl⟩)
        | true =>
          rw [step_of_word hinput hrst hcfg hl] at h
          exact .inr (.inr ⟨hcfg, rfl, exec_refused_iff.mp h⟩)
      · rw [step_of_changed_cfg hinput hrst hcfg] at h
        cases h
        exact .inl ⟨hcfg, rfl⟩

end Sys2Proof.Machine

namespace Sys2Proof

open Sys2Proof.Machine

/-- Settles O10: where an item is left, a step is refused for another reason. -/
theorem runEndsWithInput : Obligations.RunEndsWithInput := by
  refine fun s => ⟨fun h => ?_, step_of_no_input⟩
  rcases step_refused_cases h with ⟨hinput, -⟩ | ⟨x, rest, -, -, ⟨-, hr⟩ | ⟨-, -, hr⟩ | ⟨-, -, -, hr⟩⟩
  · exact hinput
  · cases hr
  · cases hr
  · cases hr

end Sys2Proof

/-!
PROOFS about reset (70_reset_and_hazards.md): what a step with `rst` asserted answers (R250), and the state it answers (R251).
-/

namespace Sys2Proof.Machine

/-- R250: the word of an item that asserts `rst` does not reach the outcome. -/
theorem step_of_rst_withWord (s : State) {x : InputStep} (rest : List InputStep) (hrst : x.rst = true) (w : InputWord) :
    step { s with input := { x with word := w } :: rest } = .next (resetStep s x.cfg rest) :=
  step_of_rst (x := { x with word := w }) rfl hrst

end Sys2Proof.Machine

namespace Sys2Proof

open Sys2Proof.Machine

/-- Settles O7: the state answered is the reset state under the item's configuration, with the records there were. -/
theorem resetStepGivesResetState : Obligations.ResetStepGivesResetState := by
  intro s x rest hinput hrst
  refine ⟨resetStep s x.cfg rest, step_of_rst hinput hrst, step_of_rst_withWord s rest hrst, ?_⟩
  simp [resetStep]

/-- Settles O30: `State.reset` is the reset state under the model's own configuration, with no input and no record. -/
theorem resetHasInvariants : Obligations.ResetHasInvariants :=
  ⟨State.resetWith_inv Config.ex1 [] [], State.resetWith_inv⟩

end Sys2Proof
